-- ==== Sys2Proof/Word.lean ====
section
/-! DEFINITION. The word types of the block: 32-bit words, 16-bit instruction halfwords, bytes, and
the sixteen register numbers (spec 00_scope.md R7, R10; 10_state.md R21, R22). -/

namespace Sys2Proof

/-- A memory byte. -/
abbrev Byte := BitVec 8

/-- The instruction unit (`ILEN` = 16, R7). -/
abbrev Half := BitVec 16

/-- A register, an address or a data word (`XLEN` = 32, R7; `u32` of R10). -/
abbrev Word := BitVec 32

/-- The index of a general register, 0 to 15 (R21). -/
abbrev Reg := Fin 16

/-- The stack pointer, `x[13]` (R22). -/
abbrev sp : Reg := 13

/-- The link register, `x[14]` (R22). -/
abbrev lr : Reg := 14

/-- The program counter, `x[15]` (R22). -/
abbrev pc : Reg := 15

/-- The sizes a memory access can have (spec 20_memory.md R75): there are no 8-byte accesses. -/
inductive Width
  | byte
  | half
  | word
deriving DecidableEq, Repr

end Sys2Proof
end

