-- ==== Sys2Proof/Syntax.lean ====
section
/-! DEFINITION. The instructions: one constructor per row of spec/opcode_table.json, in the table's
order, holding the operand fields of the row (spec 30_encoding.md R100 to R122). Immediates are the
encoded fields, before scaling. -/

namespace Sys2Proof

/-- The decoded instructions of the block (R100). Register fields of 3 bits and of 4 bits share the
type `Reg`; which of them may name a high register is said in WellFormed.lean. -/
inductive Instr
  /-- LSL_imm: `LSLS Rd, Rm, #imm5`, format F1, R190. -/
  | lslImm (rd : Reg) (rm : Reg) (imm5 : BitVec 5)
  /-- LSR_imm: `LSRS Rd, Rm, #imm5`, format F1, R191. -/
  | lsrImm (rd : Reg) (rm : Reg) (imm5 : BitVec 5)
  /-- ASR_imm: `ASRS Rd, Rm, #imm5`, format F1, R192. -/
  | asrImm (rd : Reg) (rm : Reg) (imm5 : BitVec 5)
  /-- ADD_reg: `ADDS Rd, Rn, Rm`, format F2, R193. -/
  | addReg (rd : Reg) (rn : Reg) (rm : Reg)
  /-- SUB_reg: `SUBS Rd, Rn, Rm`, format F2, R194. -/
  | subReg (rd : Reg) (rn : Reg) (rm : Reg)
  /-- ADD_imm3: `ADDS Rd, Rn, #imm3`, format F2, R195. -/
  | addImm3 (rd : Reg) (rn : Reg) (imm3 : BitVec 3)
  /-- SUB_imm3: `SUBS Rd, Rn, #imm3`, format F2, R196. -/
  | subImm3 (rd : Reg) (rn : Reg) (imm3 : BitVec 3)
  /-- MOV_imm8: `MOVS Rd, #imm8`, format F3, R197. -/
  | movImm8 (rd : Reg) (imm8 : BitVec 8)
  /-- CMP_imm8: `CMP Rn, #imm8`, format F3, R198. -/
  | cmpImm8 (rn : Reg) (imm8 : BitVec 8)
  /-- ADD_imm8: `ADDS Rdn, #imm8`, format F3, R199. -/
  | addImm8 (rdn : Reg) (imm8 : BitVec 8)
  /-- SUB_imm8: `SUBS Rdn, #imm8`, format F3, R200. -/
  | subImm8 (rdn : Reg) (imm8 : BitVec 8)
  /-- AND: `ANDS Rdn, Rm`, format F4, R210. -/
  | andReg (rdn : Reg) (rm : Reg)
  /-- EOR: `EORS Rdn, Rm`, format F4, R211. -/
  | eorReg (rdn : Reg) (rm : Reg)
  /-- LSL_reg: `LSLS Rdn, Rs`, format F4, R212. -/
  | lslReg (rdn : Reg) (rs : Reg)
  /-- LSR_reg: `LSRS Rdn, Rs`, format F4, R213. -/
  | lsrReg (rdn : Reg) (rs : Reg)
  /-- ASR_reg: `ASRS Rdn, Rs`, format F4, R214. -/
  | asrReg (rdn : Reg) (rs : Reg)
  /-- ADC: `ADCS Rdn, Rm`, format F4, R215. -/
  | adcReg (rdn : Reg) (rm : Reg)
  /-- SBC: `SBCS Rdn, Rm`, format F4, R216. -/
  | sbcReg (rdn : Reg) (rm : Reg)
  /-- ROR: `RORS Rdn, Rs`, format F4, R217. -/
  | rorReg (rdn : Reg) (rs : Reg)
  /-- TST: `TST Rn, Rm`, format F4, R218. -/
  | tstReg (rn : Reg) (rm : Reg)
  /-- NEG: `RSBS Rd, Rm, #0`, format F4, R219. -/
  | negReg (rd : Reg) (rm : Reg)
  /-- CMP_reg: `CMP Rn, Rm`, format F4, R220. -/
  | cmpReg (rn : Reg) (rm : Reg)
  /-- CMN: `CMN Rn, Rm`, format F4, R221. -/
  | cmnReg (rn : Reg) (rm : Reg)
  /-- ORR: `ORRS Rdn, Rm`, format F4, R222. -/
  | orrReg (rdn : Reg) (rm : Reg)
  /-- MUL: `MULS Rdn, Rm`, format F4, R223. -/
  | mulReg (rdn : Reg) (rm : Reg)
  /-- BIC: `BICS Rdn, Rm`, format F4, R224. -/
  | bicReg (rdn : Reg) (rm : Reg)
  /-- MVN: `MVNS Rd, Rm`, format F4, R225. -/
  | mvnReg (rd : Reg) (rm : Reg)
  /-- ADD_hi: `ADD Rd, Rm`, format F5, R240. -/
  | addHi (rd : Reg) (rm : Reg)
  /-- CMP_hi: `CMP Rn, Rm`, format F5, R241. -/
  | cmpHi (rn : Reg) (rm : Reg)
  /-- MOV_hi: `MOV Rd, Rm`, format F5, R242. -/
  | movHi (rd : Reg) (rm : Reg)
  /-- BX: `BX Rm`, format F5, R243. -/
  | bx (rm : Reg)
  /-- BLX_reg: `BLX Rm`, format F5, R244. -/
  | blxReg (rm : Reg)
  /-- LDR_lit: `LDR Rt, [PC, #imm8*4]`, format F6, R250. -/
  | ldrLit (rt : Reg) (imm8 : BitVec 8)
  /-- STR_reg: `STR Rt, [Rn, Rm]`, format F7a, R251. -/
  | strReg (rt : Reg) (rn : Reg) (rm : Reg)
  /-- STRH_reg: `STRH Rt, [Rn, Rm]`, format F8a, R255. -/
  | strhReg (rt : Reg) (rn : Reg) (rm : Reg)
  /-- STRB_reg: `STRB Rt, [Rn, Rm]`, format F7a, R252. -/
  | strbReg (rt : Reg) (rn : Reg) (rm : Reg)
  /-- LDRSB_reg: `LDRSB Rt, [Rn, Rm]`, format F8a, R257. -/
  | ldrsbReg (rt : Reg) (rn : Reg) (rm : Reg)
  /-- LDR_reg: `LDR Rt, [Rn, Rm]`, format F7a, R253. -/
  | ldrReg (rt : Reg) (rn : Reg) (rm : Reg)
  /-- LDRH_reg: `LDRH Rt, [Rn, Rm]`, format F8a, R256. -/
  | ldrhReg (rt : Reg) (rn : Reg) (rm : Reg)
  /-- LDRB_reg: `LDRB Rt, [Rn, Rm]`, format F7a, R254. -/
  | ldrbReg (rt : Reg) (rn : Reg) (rm : Reg)
  /-- LDRSH_reg: `LDRSH Rt, [Rn, Rm]`, format F8a, R258. -/
  | ldrshReg (rt : Reg) (rn : Reg) (rm : Reg)
  /-- STR_imm5: `STR Rt, [Rn, #imm5*4]`, format F7b, R259. -/
  | strImm5 (rt : Reg) (rn : Reg) (imm5 : BitVec 5)
  /-- LDR_imm5: `LDR Rt, [Rn, #imm5*4]`, format F7b, R260. -/
  | ldrImm5 (rt : Reg) (rn : Reg) (imm5 : BitVec 5)
  /-- STRB_imm5: `STRB Rt, [Rn, #imm5]`, format F7b, R261. -/
  | strbImm5 (rt : Reg) (rn : Reg) (imm5 : BitVec 5)
  /-- LDRB_imm5: `LDRB Rt, [Rn, #imm5]`, format F7b, R262. -/
  | ldrbImm5 (rt : Reg) (rn : Reg) (imm5 : BitVec 5)
  /-- STRH_imm5: `STRH Rt, [Rn, #imm5*2]`, format F8b, R263. -/
  | strhImm5 (rt : Reg) (rn : Reg) (imm5 : BitVec 5)
  /-- LDRH_imm5: `LDRH Rt, [Rn, #imm5*2]`, format F8b, R264. -/
  | ldrhImm5 (rt : Reg) (rn : Reg) (imm5 : BitVec 5)
  /-- STR_sp: `STR Rt, [SP, #imm8*4]`, format F9, R265. -/
  | strSp (rt : Reg) (imm8 : BitVec 8)
  /-- LDR_sp: `LDR Rt, [SP, #imm8*4]`, format F9, R266. -/
  | ldrSp (rt : Reg) (imm8 : BitVec 8)
  /-- ADR: `ADR Rd, label / ADD Rd, PC, #imm8*4`, format F10, R280. -/
  | adr (rd : Reg) (imm8 : BitVec 8)
  /-- ADD_rd_sp: `ADD Rd, SP, #imm8*4`, format F10, R281. -/
  | addRdSp (rd : Reg) (imm8 : BitVec 8)
  /-- ADD_sp_imm7: `ADD SP, #imm7*4`, format F11, R282. -/
  | addSpImm7 (imm7 : BitVec 7)
  /-- SUB_sp_imm7: `SUB SP, #imm7*4`, format F11, R283. -/
  | subSpImm7 (imm7 : BitVec 7)
  /-- SXTH: `SXTH Rd, Rm`, format F12, R284. -/
  | sxth (rd : Reg) (rm : Reg)
  /-- SXTB: `SXTB Rd, Rm`, format F12, R285. -/
  | sxtb (rd : Reg) (rm : Reg)
  /-- UXTH: `UXTH Rd, Rm`, format F12, R286. -/
  | uxth (rd : Reg) (rm : Reg)
  /-- UXTB: `UXTB Rd, Rm`, format F12, R287. -/
  | uxtb (rd : Reg) (rm : Reg)
  /-- REV: `REV Rd, Rm`, format F13, R288. -/
  | rev (rd : Reg) (rm : Reg)
  /-- REV16: `REV16 Rd, Rm`, format F13, R289. -/
  | rev16 (rd : Reg) (rm : Reg)
  /-- REVSH: `REVSH Rd, Rm`, format F13, R290. -/
  | revsh (rd : Reg) (rm : Reg)
  /-- PUSH: `PUSH {rlist[, lr]}`, format F14, R300. -/
  | push (rlist : BitVec 8) (lrBit : Bool)
  /-- POP: `POP {rlist[, pc]}`, format F14, R301. -/
  | pop (rlist : BitVec 8) (pcBit : Bool)
  /-- STMIA: `STMIA Rn!, {rlist}`, format F15, R302. -/
  | stmia (rn : Reg) (rlist : BitVec 8)
  /-- LDMIA: `LDMIA Rn[!], {rlist}`, format F15, R303. -/
  | ldmia (rn : Reg) (rlist : BitVec 8)
  /-- BEQ: `BEQ label`, format F16, R311. -/
  | beq (imm8 : BitVec 8)
  /-- BNE: `BNE label`, format F16, R312. -/
  | bne (imm8 : BitVec 8)
  /-- BCS: `BCS label`, format F16, R313. -/
  | bcs (imm8 : BitVec 8)
  /-- BCC: `BCC label`, format F16, R314. -/
  | bcc (imm8 : BitVec 8)
  /-- BMI: `BMI label`, format F16, R315. -/
  | bmi (imm8 : BitVec 8)
  /-- BPL: `BPL label`, format F16, R316. -/
  | bpl (imm8 : BitVec 8)
  /-- BVS: `BVS label`, format F16, R317. -/
  | bvs (imm8 : BitVec 8)
  /-- BVC: `BVC label`, format F16, R318. -/
  | bvc (imm8 : BitVec 8)
  /-- BHI: `BHI label`, format F16, R319. -/
  | bhi (imm8 : BitVec 8)
  /-- BLS: `BLS label`, format F16, R320. -/
  | bls (imm8 : BitVec 8)
  /-- BGE: `BGE label`, format F16, R321. -/
  | bge (imm8 : BitVec 8)
  /-- BLT: `BLT label`, format F16, R322. -/
  | blt (imm8 : BitVec 8)
  /-- BGT: `BGT label`, format F16, R323. -/
  | bgt (imm8 : BitVec 8)
  /-- BLE: `BLE label`, format F16, R324. -/
  | ble (imm8 : BitVec 8)
  /-- SVC: `SVC #imm8`, format F19, R340. -/
  | svc (imm8 : BitVec 8)
  /-- B: `B label`, format F17, R325. -/
  | b (imm11 : BitVec 11)
  /-- BL_prefix: `BL label (first halfword)`, format F18, R326. -/
  | blPrefix (imm11 : BitVec 11)
  /-- BL_suffix: `BL label (second halfword)`, format F18, R327. -/
  | blSuffix (imm11 : BitVec 11)
  /-- MRS: `MRS Rd, spec_reg`, format F20, R341. -/
  | mrs (rd : Reg) (sysm : BitVec 8)
  /-- MSR: `MSR spec_reg, Rn`, format F20, R342. -/
  | msr (rn : Reg) (sysm : BitVec 8)
  /-- DSB: `DSB #option`, format F20, R343. -/
  | dsb (option : BitVec 4)
  /-- DMB: `DMB #option`, format F20, R344. -/
  | dmb (option : BitVec 4)
  /-- ISB: `ISB #option`, format F20, R345. -/
  | isb (option : BitVec 4)
deriving DecidableEq, Repr

end Sys2Proof
end

