-- ==== Sys2Proof/WellFormed.lean ====
section
/-! DEFINITION. Which terms of `Instr` an encoding exists for: a 3-bit register field names
`x[0]` to `x[7]` only (spec 10_state.md R23, 30_encoding.md R102). -/

namespace Sys2Proof

/-- A low register, `x[0]` to `x[7]`: what a 3-bit field can name (R22, R23, R102). -/
def isLow (r : Reg) : Bool := r.val < 8

/-- The operands that stand in 3-bit register fields (R103 to R118). -/
def lowOperands : Instr → List Reg
  | .lslImm rd rm _ => [rd, rm]
  | .lsrImm rd rm _ => [rd, rm]
  | .asrImm rd rm _ => [rd, rm]
  | .addReg rd rn rm => [rd, rn, rm]
  | .subReg rd rn rm => [rd, rn, rm]
  | .addImm3 rd rn _ => [rd, rn]
  | .subImm3 rd rn _ => [rd, rn]
  | .movImm8 rd _ => [rd]
  | .cmpImm8 rn _ => [rn]
  | .addImm8 rdn _ => [rdn]
  | .subImm8 rdn _ => [rdn]
  | .andReg rdn rm => [rdn, rm]
  | .eorReg rdn rm => [rdn, rm]
  | .lslReg rdn rs => [rdn, rs]
  | .lsrReg rdn rs => [rdn, rs]
  | .asrReg rdn rs => [rdn, rs]
  | .adcReg rdn rm => [rdn, rm]
  | .sbcReg rdn rm => [rdn, rm]
  | .rorReg rdn rs => [rdn, rs]
  | .tstReg rn rm => [rn, rm]
  | .negReg rd rm => [rd, rm]
  | .cmpReg rn rm => [rn, rm]
  | .cmnReg rn rm => [rn, rm]
  | .orrReg rdn rm => [rdn, rm]
  | .mulReg rdn rm => [rdn, rm]
  | .bicReg rdn rm => [rdn, rm]
  | .mvnReg rd rm => [rd, rm]
  | .addHi _ _ => []
  | .cmpHi _ _ => []
  | .movHi _ _ => []
  | .bx _ => []
  | .blxReg _ => []
  | .ldrLit rt _ => [rt]
  | .strReg rt rn rm => [rt, rn, rm]
  | .strhReg rt rn rm => [rt, rn, rm]
  | .strbReg rt rn rm => [rt, rn, rm]
  | .ldrsbReg rt rn rm => [rt, rn, rm]
  | .ldrReg rt rn rm => [rt, rn, rm]
  | .ldrhReg rt rn rm => [rt, rn, rm]
  | .ldrbReg rt rn rm => [rt, rn, rm]
  | .ldrshReg rt rn rm => [rt, rn, rm]
  | .strImm5 rt rn _ => [rt, rn]
  | .ldrImm5 rt rn _ => [rt, rn]
  | .strbImm5 rt rn _ => [rt, rn]
  | .ldrbImm5 rt rn _ => [rt, rn]
  | .strhImm5 rt rn _ => [rt, rn]
  | .ldrhImm5 rt rn _ => [rt, rn]
  | .strSp rt _ => [rt]
  | .ldrSp rt _ => [rt]
  | .adr rd _ => [rd]
  | .addRdSp rd _ => [rd]
  | .addSpImm7 _ => []
  | .subSpImm7 _ => []
  | .sxth rd rm => [rd, rm]
  | .sxtb rd rm => [rd, rm]
  | .uxth rd rm => [rd, rm]
  | .uxtb rd rm => [rd, rm]
  | .rev rd rm => [rd, rm]
  | .rev16 rd rm => [rd, rm]
  | .revsh rd rm => [rd, rm]
  | .push _ _ => []
  | .pop _ _ => []
  | .stmia rn _ => [rn]
  | .ldmia rn _ => [rn]
  | .beq _ => []
  | .bne _ => []
  | .bcs _ => []
  | .bcc _ => []
  | .bmi _ => []
  | .bpl _ => []
  | .bvs _ => []
  | .bvc _ => []
  | .bhi _ => []
  | .bls _ => []
  | .bge _ => []
  | .blt _ => []
  | .bgt _ => []
  | .ble _ => []
  | .svc _ => []
  | .b _ => []
  | .blPrefix _ => []
  | .blSuffix _ => []
  | .mrs _ _ => []
  | .msr _ _ => []
  | .dsb _ => []
  | .dmb _ => []
  | .isb _ => []

/-- An instruction that some halfwords encode: every 3-bit register field names a low register. The
other operands have exactly the values of their fields by their types. -/
def wellFormed (i : Instr) : Bool := (lowOperands i).all isLow

end Sys2Proof
end

