-- ==== Sys2Proof/Decode.lean ====
section
/-! DEFINITION. The decoder and, after it, the encoder (spec 30_encoding.md R103 to R133). The table
below is spec/opcode_table.json row for row: mask, match, the condition on the following halfword
where the row has one, and the operand fields. The bit layouts are the spec's; it marks them as
general knowledge (K1; log entry 11). -/

namespace Sys2Proof

/-- Why a halfword is no instruction: the four groups of R124, and a byte string too short to hold a
halfword (which an even `ROM_SIZE` rules out, R8). Rejecting is safe: the machine goes on with a
no-op (R145). -/
inductive Unrecognised
  /-- The unallocated part of the `1011` block: hints, BKPT, CPS, CBZ and others (R124, R347). -/
  | block1011
  /-- Condition code `1110`, `0xDE00` to `0xDEFF` (R124). -/
  | condition1110
  /-- `0xE800` to `0xEFFF` (R124). -/
  | block11101
  /-- `0xF000` to `0xF7FF` before a halfword that makes it neither a BL prefix nor a two-halfword
  system instruction (R124). -/
  | loneHalf11110
  /-- Fewer than two bytes. -/
  | truncated
deriving DecidableEq, Repr

/-- The 3-bit register field at bits `lo+2 : lo` (R102). -/
def lowField (hw : Half) (lo : Nat) : Reg := ⟨hw.toNat / 2 ^ lo % 8, by omega⟩

/-- The 4-bit register field at bits `lo+3 : lo` (R102). -/
def regField (hw : Half) (lo : Nat) : Reg := ⟨hw.toNat / 2 ^ lo % 16, by omega⟩

/-- The split 4-bit register field `D : ddd` of F5: bit 7 above bits 2:0 (R107). -/
def splitField (hw : Half) : Reg := ⟨hw.toNat / 128 % 2 * 8 + hw.toNat % 8, by omega⟩

/-- One row of the opcode table. -/
structure Row where
  /-- The bits the row fixes. -/
  mask : Half
  /-- Their values. -/
  pattern : Half
  /-- Mask and match for the following halfword, where the row has a `next` condition. -/
  next : Option (Half × Half)
  /-- The decoded instruction, from the halfword and the following one. -/
  build : Half → Half → Instr

/-- Whether a row matches a halfword and its successor (R124, R130). -/
def rowHits (r : Row) (hw hw2 : Half) : Bool :=
  (hw &&& r.mask == r.pattern) &&
    match r.next with
    | none => true
    | some (m, p) => hw2 &&& m == p

/-- Formats F1 to F3 (R103 to R105). -/
def rowsF1toF3 : List Row := [
  ⟨0xF800, 0x0000, none,
    fun hw _ => .lslImm (lowField hw 0) (lowField hw 3) (hw.extractLsb' 6 5)⟩,
  ⟨0xF800, 0x0800, none,
    fun hw _ => .lsrImm (lowField hw 0) (lowField hw 3) (hw.extractLsb' 6 5)⟩,
  ⟨0xF800, 0x1000, none,
    fun hw _ => .asrImm (lowField hw 0) (lowField hw 3) (hw.extractLsb' 6 5)⟩,
  ⟨0xFE00, 0x1800, none,
    fun hw _ => .addReg (lowField hw 0) (lowField hw 3) (lowField hw 6)⟩,
  ⟨0xFE00, 0x1A00, none,
    fun hw _ => .subReg (lowField hw 0) (lowField hw 3) (lowField hw 6)⟩,
  ⟨0xFE00, 0x1C00, none,
    fun hw _ => .addImm3 (lowField hw 0) (lowField hw 3) (hw.extractLsb' 6 3)⟩,
  ⟨0xFE00, 0x1E00, none,
    fun hw _ => .subImm3 (lowField hw 0) (lowField hw 3) (hw.extractLsb' 6 3)⟩,
  ⟨0xF800, 0x2000, none,
    fun hw _ => .movImm8 (lowField hw 8) (hw.extractLsb' 0 8)⟩,
  ⟨0xF800, 0x2800, none,
    fun hw _ => .cmpImm8 (lowField hw 8) (hw.extractLsb' 0 8)⟩,
  ⟨0xF800, 0x3000, none,
    fun hw _ => .addImm8 (lowField hw 8) (hw.extractLsb' 0 8)⟩,
  ⟨0xF800, 0x3800, none,
    fun hw _ => .subImm8 (lowField hw 8) (hw.extractLsb' 0 8)⟩]

/-- Formats F4 (R106). -/
def rowsF4 : List Row := [
  ⟨0xFFC0, 0x4000, none,
    fun hw _ => .andReg (lowField hw 0) (lowField hw 3)⟩,
  ⟨0xFFC0, 0x4040, none,
    fun hw _ => .eorReg (lowField hw 0) (lowField hw 3)⟩,
  ⟨0xFFC0, 0x4080, none,
    fun hw _ => .lslReg (lowField hw 0) (lowField hw 3)⟩,
  ⟨0xFFC0, 0x40C0, none,
    fun hw _ => .lsrReg (lowField hw 0) (lowField hw 3)⟩,
  ⟨0xFFC0, 0x4100, none,
    fun hw _ => .asrReg (lowField hw 0) (lowField hw 3)⟩,
  ⟨0xFFC0, 0x4140, none,
    fun hw _ => .adcReg (lowField hw 0) (lowField hw 3)⟩,
  ⟨0xFFC0, 0x4180, none,
    fun hw _ => .sbcReg (lowField hw 0) (lowField hw 3)⟩,
  ⟨0xFFC0, 0x41C0, none,
    fun hw _ => .rorReg (lowField hw 0) (lowField hw 3)⟩,
  ⟨0xFFC0, 0x4200, none,
    fun hw _ => .tstReg (lowField hw 0) (lowField hw 3)⟩,
  ⟨0xFFC0, 0x4240, none,
    fun hw _ => .negReg (lowField hw 0) (lowField hw 3)⟩,
  ⟨0xFFC0, 0x4280, none,
    fun hw _ => .cmpReg (lowField hw 0) (lowField hw 3)⟩,
  ⟨0xFFC0, 0x42C0, none,
    fun hw _ => .cmnReg (lowField hw 0) (lowField hw 3)⟩,
  ⟨0xFFC0, 0x4300, none,
    fun hw _ => .orrReg (lowField hw 0) (lowField hw 3)⟩,
  ⟨0xFFC0, 0x4340, none,
    fun hw _ => .mulReg (lowField hw 0) (lowField hw 3)⟩,
  ⟨0xFFC0, 0x4380, none,
    fun hw _ => .bicReg (lowField hw 0) (lowField hw 3)⟩,
  ⟨0xFFC0, 0x43C0, none,
    fun hw _ => .mvnReg (lowField hw 0) (lowField hw 3)⟩]

/-- Formats F5 (R107). -/
def rowsF5 : List Row := [
  ⟨0xFF00, 0x4400, none,
    fun hw _ => .addHi (splitField hw) (regField hw 3)⟩,
  ⟨0xFF00, 0x4500, none,
    fun hw _ => .cmpHi (splitField hw) (regField hw 3)⟩,
  ⟨0xFF00, 0x4600, none,
    fun hw _ => .movHi (splitField hw) (regField hw 3)⟩,
  ⟨0xFF80, 0x4700, none,
    fun hw _ => .bx (regField hw 3)⟩,
  ⟨0xFF80, 0x4780, none,
    fun hw _ => .blxReg (regField hw 3)⟩]

/-- Formats F6 to F9 (R108 to R112). -/
def rowsF6toF9 : List Row := [
  ⟨0xF800, 0x4800, none,
    fun hw _ => .ldrLit (lowField hw 8) (hw.extractLsb' 0 8)⟩,
  ⟨0xFE00, 0x5000, none,
    fun hw _ => .strReg (lowField hw 0) (lowField hw 3) (lowField hw 6)⟩,
  ⟨0xFE00, 0x5200, none,
    fun hw _ => .strhReg (lowField hw 0) (lowField hw 3) (lowField hw 6)⟩,
  ⟨0xFE00, 0x5400, none,
    fun hw _ => .strbReg (lowField hw 0) (lowField hw 3) (lowField hw 6)⟩,
  ⟨0xFE00, 0x5600, none,
    fun hw _ => .ldrsbReg (lowField hw 0) (lowField hw 3) (lowField hw 6)⟩,
  ⟨0xFE00, 0x5800, none,
    fun hw _ => .ldrReg (lowField hw 0) (lowField hw 3) (lowField hw 6)⟩,
  ⟨0xFE00, 0x5A00, none,
    fun hw _ => .ldrhReg (lowField hw 0) (lowField hw 3) (lowField hw 6)⟩,
  ⟨0xFE00, 0x5C00, none,
    fun hw _ => .ldrbReg (lowField hw 0) (lowField hw 3) (lowField hw 6)⟩,
  ⟨0xFE00, 0x5E00, none,
    fun hw _ => .ldrshReg (lowField hw 0) (lowField hw 3) (lowField hw 6)⟩,
  ⟨0xF800, 0x6000, none,
    fun hw _ => .strImm5 (lowField hw 0) (lowField hw 3) (hw.extractLsb' 6 5)⟩,
  ⟨0xF800, 0x6800, none,
    fun hw _ => .ldrImm5 (lowField hw 0) (lowField hw 3) (hw.extractLsb' 6 5)⟩,
  ⟨0xF800, 0x7000, none,
    fun hw _ => .strbImm5 (lowField hw 0) (lowField hw 3) (hw.extractLsb' 6 5)⟩,
  ⟨0xF800, 0x7800, none,
    fun hw _ => .ldrbImm5 (lowField hw 0) (lowField hw 3) (hw.extractLsb' 6 5)⟩,
  ⟨0xF800, 0x8000, none,
    fun hw _ => .strhImm5 (lowField hw 0) (lowField hw 3) (hw.extractLsb' 6 5)⟩,
  ⟨0xF800, 0x8800, none,
    fun hw _ => .ldrhImm5 (lowField hw 0) (lowField hw 3) (hw.extractLsb' 6 5)⟩,
  ⟨0xF800, 0x9000, none,
    fun hw _ => .strSp (lowField hw 8) (hw.extractLsb' 0 8)⟩,
  ⟨0xF800, 0x9800, none,
    fun hw _ => .ldrSp (lowField hw 8) (hw.extractLsb' 0 8)⟩]

/-- Formats F10 to F15 (R113 to R118). -/
def rowsF10toF15 : List Row := [
  ⟨0xF800, 0xA000, none,
    fun hw _ => .adr (lowField hw 8) (hw.extractLsb' 0 8)⟩,
  ⟨0xF800, 0xA800, none,
    fun hw _ => .addRdSp (lowField hw 8) (hw.extractLsb' 0 8)⟩,
  ⟨0xFF80, 0xB000, none,
    fun hw _ => .addSpImm7 (hw.extractLsb' 0 7)⟩,
  ⟨0xFF80, 0xB080, none,
    fun hw _ => .subSpImm7 (hw.extractLsb' 0 7)⟩,
  ⟨0xFFC0, 0xB200, none,
    fun hw _ => .sxth (lowField hw 0) (lowField hw 3)⟩,
  ⟨0xFFC0, 0xB240, none,
    fun hw _ => .sxtb (lowField hw 0) (lowField hw 3)⟩,
  ⟨0xFFC0, 0xB280, none,
    fun hw _ => .uxth (lowField hw 0) (lowField hw 3)⟩,
  ⟨0xFFC0, 0xB2C0, none,
    fun hw _ => .uxtb (lowField hw 0) (lowField hw 3)⟩,
  ⟨0xFFC0, 0xBA00, none,
    fun hw _ => .rev (lowField hw 0) (lowField hw 3)⟩,
  ⟨0xFFC0, 0xBA40, none,
    fun hw _ => .rev16 (lowField hw 0) (lowField hw 3)⟩,
  ⟨0xFFC0, 0xBAC0, none,
    fun hw _ => .revsh (lowField hw 0) (lowField hw 3)⟩,
  ⟨0xFE00, 0xB400, none,
    fun hw _ => .push (hw.extractLsb' 0 8) (hw.getLsbD 8)⟩,
  ⟨0xFE00, 0xBC00, none,
    fun hw _ => .pop (hw.extractLsb' 0 8) (hw.getLsbD 8)⟩,
  ⟨0xF800, 0xC000, none,
    fun hw _ => .stmia (lowField hw 8) (hw.extractLsb' 0 8)⟩,
  ⟨0xF800, 0xC800, none,
    fun hw _ => .ldmia (lowField hw 8) (hw.extractLsb' 0 8)⟩]

/-- Formats F16 to F20 (R119 to R121). -/
def rowsF16toF20 : List Row := [
  ⟨0xFF00, 0xD000, none,
    fun hw _ => .beq (hw.extractLsb' 0 8)⟩,
  ⟨0xFF00, 0xD100, none,
    fun hw _ => .bne (hw.extractLsb' 0 8)⟩,
  ⟨0xFF00, 0xD200, none,
    fun hw _ => .bcs (hw.extractLsb' 0 8)⟩,
  ⟨0xFF00, 0xD300, none,
    fun hw _ => .bcc (hw.extractLsb' 0 8)⟩,
  ⟨0xFF00, 0xD400, none,
    fun hw _ => .bmi (hw.extractLsb' 0 8)⟩,
  ⟨0xFF00, 0xD500, none,
    fun hw _ => .bpl (hw.extractLsb' 0 8)⟩,
  ⟨0xFF00, 0xD600, none,
    fun hw _ => .bvs (hw.extractLsb' 0 8)⟩,
  ⟨0xFF00, 0xD700, none,
    fun hw _ => .bvc (hw.extractLsb' 0 8)⟩,
  ⟨0xFF00, 0xD800, none,
    fun hw _ => .bhi (hw.extractLsb' 0 8)⟩,
  ⟨0xFF00, 0xD900, none,
    fun hw _ => .bls (hw.extractLsb' 0 8)⟩,
  ⟨0xFF00, 0xDA00, none,
    fun hw _ => .bge (hw.extractLsb' 0 8)⟩,
  ⟨0xFF00, 0xDB00, none,
    fun hw _ => .blt (hw.extractLsb' 0 8)⟩,
  ⟨0xFF00, 0xDC00, none,
    fun hw _ => .bgt (hw.extractLsb' 0 8)⟩,
  ⟨0xFF00, 0xDD00, none,
    fun hw _ => .ble (hw.extractLsb' 0 8)⟩,
  ⟨0xFF00, 0xDF00, none,
    fun hw _ => .svc (hw.extractLsb' 0 8)⟩,
  ⟨0xF800, 0xE000, none,
    fun hw _ => .b (hw.extractLsb' 0 11)⟩,
  ⟨0xF800, 0xF000, some (0xF800, 0xF800),
    fun hw _ => .blPrefix (hw.extractLsb' 0 11)⟩,
  ⟨0xF800, 0xF800, none,
    fun hw _ => .blSuffix (hw.extractLsb' 0 11)⟩,
  ⟨0xFFFF, 0xF3EF, some (0xF000, 0x8000),
    fun _ hw2 => .mrs (regField hw2 8) (hw2.extractLsb' 0 8)⟩,
  ⟨0xFFF0, 0xF380, some (0xFF00, 0x8800),
    fun hw hw2 => .msr (regField hw 0) (hw2.extractLsb' 0 8)⟩,
  ⟨0xFFFF, 0xF3BF, some (0xFFF0, 0x8F40),
    fun _ hw2 => .dsb (hw2.extractLsb' 0 4)⟩,
  ⟨0xFFFF, 0xF3BF, some (0xFFF0, 0x8F50),
    fun _ hw2 => .dmb (hw2.extractLsb' 0 4)⟩,
  ⟨0xFFFF, 0xF3BF, some (0xFFF0, 0x8F60),
    fun _ hw2 => .isb (hw2.extractLsb' 0 4)⟩]

/-- The whole opcode table (spec/opcode_table.json). -/
def opcodeTable : List Row :=
  rowsF1toF3 ++ rowsF4 ++ rowsF5 ++ rowsF6toF9 ++ rowsF10toF15 ++ rowsF16toF20

/-- The group of R124 that a halfword no row matches belongs to. -/
def rejectReason (hw : Half) : Unrecognised :=
  if hw.toNat / 2 ^ 12 = 0xB then .block1011
  else if hw.toNat / 2 ^ 8 = 0xDE then .condition1110
  else if hw.toNat / 2 ^ 11 = 0x1D then .block11101
  else .loneHalf11110

/-- The decoder: the instruction of the row that matches the halfword `hw` at an address and the
halfword `hw2` after it (R130). The rows are disjoint, so the order does not matter (R133). -/
def decode (hw hw2 : Half) : Except Unrecognised Instr :=
  match opcodeTable.find? fun r => rowHits r hw hw2 with
  | some r => .ok (r.build hw hw2)
  | none => .error (rejectReason hw)

/-- The halfword whose byte at the lower address is `b0` (little-endian, 20_memory.md R61). -/
def halfOfBytes (b0 b1 : Byte) : Half := b1 ++ b0

/-- The halfword the decoder peeks at; bytes that are not there read 0 (R130). -/
def peekHalf : List Byte → Half
  | [] => 0
  | [b0] => halfOfBytes b0 0
  | b0 :: b1 :: _ => halfOfBytes b0 b1

/-- Decode from bytes in memory order. Total on any bytes. -/
def decodeBytes : List Byte → Except Unrecognised Instr
  | b0 :: b1 :: rest => decode (halfOfBytes b0 b1) (peekHalf rest)
  | _ => .error .truncated

/-- The low `n` bytes of a number, the least significant first. -/
def natBytes : Nat → Nat → List Byte
  | 0, _ => []
  | n + 1, w => BitVec.ofNat 8 (w % 256) :: natBytes n (w / 256)

/-- The instruction the decoder reads from the instruction bits `w`, of which the low `nbits` are
given and the rest are 0. Bit 0 is the least significant bit of the first halfword. -/
def decodeTableWord (nbits w : Nat) : Option Instr :=
  (decodeBytes (natBytes 4 (w % 2 ^ nbits))).toOption

/-- A register number placed in the field whose lowest bit is `lo`. -/
def putReg (r : Reg) (lo : Nat) : Nat := r.val * 2 ^ lo

/-- A register number placed in the split field `D : ddd` of F5 (R107). -/
def putSplit (r : Reg) : Nat := r.val / 8 * 128 + r.val % 8

/-- An immediate placed in the field whose lowest bit is `lo`. -/
def putImm {n : Nat} (v : BitVec n) (lo : Nat) : Nat := v.toNat * 2 ^ lo

/-- A one-bit field placed at bit `lo`. -/
def putBit (b : Bool) (lo : Nat) : Nat := b.toNat * 2 ^ lo

/-- A halfword from the sum of its fixed bits and its placed fields. -/
def asHalf (n : Nat) : Half := BitVec.ofNat 16 n

/-- The halfwords of a well-formed instruction, the first at the lower address (R103 to R121). BX and
BLX write 0 in the bits the decoder ignores (R107; log entry 10). -/
def encode : Instr → List Half
  | .lslImm rd rm imm5 => [asHalf (0x0000 + putReg rd 0 + putReg rm 3 + putImm imm5 6)]
  | .lsrImm rd rm imm5 => [asHalf (0x0800 + putReg rd 0 + putReg rm 3 + putImm imm5 6)]
  | .asrImm rd rm imm5 => [asHalf (0x1000 + putReg rd 0 + putReg rm 3 + putImm imm5 6)]
  | .addReg rd rn rm => [asHalf (0x1800 + putReg rd 0 + putReg rn 3 + putReg rm 6)]
  | .subReg rd rn rm => [asHalf (0x1A00 + putReg rd 0 + putReg rn 3 + putReg rm 6)]
  | .addImm3 rd rn imm3 => [asHalf (0x1C00 + putReg rd 0 + putReg rn 3 + putImm imm3 6)]
  | .subImm3 rd rn imm3 => [asHalf (0x1E00 + putReg rd 0 + putReg rn 3 + putImm imm3 6)]
  | .movImm8 rd imm8 => [asHalf (0x2000 + putReg rd 8 + putImm imm8 0)]
  | .cmpImm8 rn imm8 => [asHalf (0x2800 + putReg rn 8 + putImm imm8 0)]
  | .addImm8 rdn imm8 => [asHalf (0x3000 + putReg rdn 8 + putImm imm8 0)]
  | .subImm8 rdn imm8 => [asHalf (0x3800 + putReg rdn 8 + putImm imm8 0)]
  | .andReg rdn rm => [asHalf (0x4000 + putReg rdn 0 + putReg rm 3)]
  | .eorReg rdn rm => [asHalf (0x4040 + putReg rdn 0 + putReg rm 3)]
  | .lslReg rdn rs => [asHalf (0x4080 + putReg rdn 0 + putReg rs 3)]
  | .lsrReg rdn rs => [asHalf (0x40C0 + putReg rdn 0 + putReg rs 3)]
  | .asrReg rdn rs => [asHalf (0x4100 + putReg rdn 0 + putReg rs 3)]
  | .adcReg rdn rm => [asHalf (0x4140 + putReg rdn 0 + putReg rm 3)]
  | .sbcReg rdn rm => [asHalf (0x4180 + putReg rdn 0 + putReg rm 3)]
  | .rorReg rdn rs => [asHalf (0x41C0 + putReg rdn 0 + putReg rs 3)]
  | .tstReg rn rm => [asHalf (0x4200 + putReg rn 0 + putReg rm 3)]
  | .negReg rd rm => [asHalf (0x4240 + putReg rd 0 + putReg rm 3)]
  | .cmpReg rn rm => [asHalf (0x4280 + putReg rn 0 + putReg rm 3)]
  | .cmnReg rn rm => [asHalf (0x42C0 + putReg rn 0 + putReg rm 3)]
  | .orrReg rdn rm => [asHalf (0x4300 + putReg rdn 0 + putReg rm 3)]
  | .mulReg rdn rm => [asHalf (0x4340 + putReg rdn 0 + putReg rm 3)]
  | .bicReg rdn rm => [asHalf (0x4380 + putReg rdn 0 + putReg rm 3)]
  | .mvnReg rd rm => [asHalf (0x43C0 + putReg rd 0 + putReg rm 3)]
  | .addHi rd rm => [asHalf (0x4400 + putSplit rd + putReg rm 3)]
  | .cmpHi rn rm => [asHalf (0x4500 + putSplit rn + putReg rm 3)]
  | .movHi rd rm => [asHalf (0x4600 + putSplit rd + putReg rm 3)]
  | .bx rm => [asHalf (0x4700 + putReg rm 3)]
  | .blxReg rm => [asHalf (0x4780 + putReg rm 3)]
  | .ldrLit rt imm8 => [asHalf (0x4800 + putReg rt 8 + putImm imm8 0)]
  | .strReg rt rn rm => [asHalf (0x5000 + putReg rt 0 + putReg rn 3 + putReg rm 6)]
  | .strhReg rt rn rm => [asHalf (0x5200 + putReg rt 0 + putReg rn 3 + putReg rm 6)]
  | .strbReg rt rn rm => [asHalf (0x5400 + putReg rt 0 + putReg rn 3 + putReg rm 6)]
  | .ldrsbReg rt rn rm => [asHalf (0x5600 + putReg rt 0 + putReg rn 3 + putReg rm 6)]
  | .ldrReg rt rn rm => [asHalf (0x5800 + putReg rt 0 + putReg rn 3 + putReg rm 6)]
  | .ldrhReg rt rn rm => [asHalf (0x5A00 + putReg rt 0 + putReg rn 3 + putReg rm 6)]
  | .ldrbReg rt rn rm => [asHalf (0x5C00 + putReg rt 0 + putReg rn 3 + putReg rm 6)]
  | .ldrshReg rt rn rm => [asHalf (0x5E00 + putReg rt 0 + putReg rn 3 + putReg rm 6)]
  | .strImm5 rt rn imm5 => [asHalf (0x6000 + putReg rt 0 + putReg rn 3 + putImm imm5 6)]
  | .ldrImm5 rt rn imm5 => [asHalf (0x6800 + putReg rt 0 + putReg rn 3 + putImm imm5 6)]
  | .strbImm5 rt rn imm5 => [asHalf (0x7000 + putReg rt 0 + putReg rn 3 + putImm imm5 6)]
  | .ldrbImm5 rt rn imm5 => [asHalf (0x7800 + putReg rt 0 + putReg rn 3 + putImm imm5 6)]
  | .strhImm5 rt rn imm5 => [asHalf (0x8000 + putReg rt 0 + putReg rn 3 + putImm imm5 6)]
  | .ldrhImm5 rt rn imm5 => [asHalf (0x8800 + putReg rt 0 + putReg rn 3 + putImm imm5 6)]
  | .strSp rt imm8 => [asHalf (0x9000 + putReg rt 8 + putImm imm8 0)]
  | .ldrSp rt imm8 => [asHalf (0x9800 + putReg rt 8 + putImm imm8 0)]
  | .adr rd imm8 => [asHalf (0xA000 + putReg rd 8 + putImm imm8 0)]
  | .addRdSp rd imm8 => [asHalf (0xA800 + putReg rd 8 + putImm imm8 0)]
  | .addSpImm7 imm7 => [asHalf (0xB000 + putImm imm7 0)]
  | .subSpImm7 imm7 => [asHalf (0xB080 + putImm imm7 0)]
  | .sxth rd rm => [asHalf (0xB200 + putReg rd 0 + putReg rm 3)]
  | .sxtb rd rm => [asHalf (0xB240 + putReg rd 0 + putReg rm 3)]
  | .uxth rd rm => [asHalf (0xB280 + putReg rd 0 + putReg rm 3)]
  | .uxtb rd rm => [asHalf (0xB2C0 + putReg rd 0 + putReg rm 3)]
  | .rev rd rm => [asHalf (0xBA00 + putReg rd 0 + putReg rm 3)]
  | .rev16 rd rm => [asHalf (0xBA40 + putReg rd 0 + putReg rm 3)]
  | .revsh rd rm => [asHalf (0xBAC0 + putReg rd 0 + putReg rm 3)]
  | .push rlist lrBit => [asHalf (0xB400 + putImm rlist 0 + putBit lrBit 8)]
  | .pop rlist pcBit => [asHalf (0xBC00 + putImm rlist 0 + putBit pcBit 8)]
  | .stmia rn rlist => [asHalf (0xC000 + putReg rn 8 + putImm rlist 0)]
  | .ldmia rn rlist => [asHalf (0xC800 + putReg rn 8 + putImm rlist 0)]
  | .beq imm8 => [asHalf (0xD000 + putImm imm8 0)]
  | .bne imm8 => [asHalf (0xD100 + putImm imm8 0)]
  | .bcs imm8 => [asHalf (0xD200 + putImm imm8 0)]
  | .bcc imm8 => [asHalf (0xD300 + putImm imm8 0)]
  | .bmi imm8 => [asHalf (0xD400 + putImm imm8 0)]
  | .bpl imm8 => [asHalf (0xD500 + putImm imm8 0)]
  | .bvs imm8 => [asHalf (0xD600 + putImm imm8 0)]
  | .bvc imm8 => [asHalf (0xD700 + putImm imm8 0)]
  | .bhi imm8 => [asHalf (0xD800 + putImm imm8 0)]
  | .bls imm8 => [asHalf (0xD900 + putImm imm8 0)]
  | .bge imm8 => [asHalf (0xDA00 + putImm imm8 0)]
  | .blt imm8 => [asHalf (0xDB00 + putImm imm8 0)]
  | .bgt imm8 => [asHalf (0xDC00 + putImm imm8 0)]
  | .ble imm8 => [asHalf (0xDD00 + putImm imm8 0)]
  | .svc imm8 => [asHalf (0xDF00 + putImm imm8 0)]
  | .b imm11 => [asHalf (0xE000 + putImm imm11 0)]
  | .blPrefix imm11 => [asHalf (0xF000 + putImm imm11 0)]
  | .blSuffix imm11 => [asHalf (0xF800 + putImm imm11 0)]
  | .mrs rd sysm => [asHalf (0xF3EF), asHalf (0x8000 + putReg rd 8 + putImm sysm 0)]
  | .msr rn sysm => [asHalf (0xF380 + putReg rn 0), asHalf (0x8800 + putImm sysm 0)]
  | .dsb option => [asHalf (0xF3BF), asHalf (0x8F40 + putImm option 0)]
  | .dmb option => [asHalf (0xF3BF), asHalf (0x8F50 + putImm option 0)]
  | .isb option => [asHalf (0xF3BF), asHalf (0x8F60 + putImm option 0)]

/-- The condition an instruction's encoding puts on the halfword after it: the BL prefix is decoded
only before a BL suffix (R120, R131). Every other instruction admits any successor. -/
def admitsNext (i : Instr) (next : Half) : Bool :=
  match i with
  | .blPrefix _ => next &&& 0xF800 == 0xF800
  | _ => true

end Sys2Proof
end

