-- ==== Sys2Proof/Config.lean ====
section
/-! DEFINITION. The configuration record: the implementation parameters the spec leaves open
(spec 00_scope.md R8), and the one free value of the model (log entry 6). -/

namespace Sys2Proof

/-- The parameters of R8. The record never changes after construction (10_state.md R20). Every
state carries one, so a statement about all states is a statement about all configurations
(log entry 1). -/
structure Config where
  /-- `ROM_SIZE`, bytes in the ROM backing array (R8, R38). -/
  romSize : Nat
  /-- `RAM_SIZE`, bytes in the RAM backing array (R8, R38). -/
  ramSize : Nat
  /-- `TICK_THRESHOLD`, an integer at least 1 (R8, R363). -/
  tickThreshold : Nat
  /-- `STATUS_STUBS`: address to fixed answer, addresses rising (R8, R71). -/
  statusStubs : List (Nat × Word)
  /-- `DMA_CHID_ADDR` (R8, R390). -/
  dmaChidAddr : Word
  /-- `DMA_BASEADDR_ADDR` (R8, R390). -/
  dmaBaseAddr : Word
  /-- `DMA_TRIGGER_ADDR` (R8, R390). -/
  dmaTriggerAddr : Word
  /-- `DMA_CHSTATUS_ADDR` (R8, R390). -/
  dmaChStatusAddr : Word
  /-- `DMA_CHSTATUS_VALUE` (R8, R395). -/
  dmaChStatusValue : Word
  /-- `DMA_DESC_STRIDE` (R8, R393). -/
  dmaDescStride : Word
  /-- `DMA_CNT_OFF` (R8, R394). -/
  dmaCntOff : Word
  /-- `DMA_CNT_BYTES`: one of the widths `MemRead` has (R8, R62). -/
  dmaCntWidth : Width
  /-- `DMA_SRC_OFF` (R8, R394). -/
  dmaSrcOff : Word
  /-- `DMA_DST_OFF` (R8, R394). -/
  dmaDstOff : Word
  /-- `DMA_NEXT_OFF` (R8, R394). -/
  dmaNextOff : Word
deriving DecidableEq, Repr

/-- DESIGN CHOICE (log entry 6): what an environment read handler answers when the run's list of
handler entries is used up. It has no body: nothing is known of it but its type. -/
opaque Config.envAnswer : Nat → Word

end Sys2Proof
end

