-- ==== Sys2Proof/Machine/Params.lean ====
section
/-! DEFINITION. The parameters the spec fixes (00_scope.md R7), in one place, the bounds the model
puts on the two loops that may never end (log entry 7), and the defaults of R8. -/

namespace Sys2Proof.Machine

/-- `RAM_BASE`, which is `ROM_LIMIT` (R7, R60). -/
def ramBase : Nat := 0x20000000

/-- `MMIO_BASE`, which is `RAM_LIMIT` (R7, R60). -/
def mmioBase : Nat := 0x40000000

/-- `MMIO_LIMIT` (R7, R60). -/
def mmioLimit : Nat := 0x60000000

/-- `FILL`, the initial byte of both backing arrays (R7, R38). -/
def fillByte : Byte := 0xFF

/-- `PIPE`, the pipeline-prefetch offset (R7, R24). -/
def pipe : Word := 2

/-- `SENTINEL`, the instruction address that means "perform exception exit" (R7, R374). -/
def sentinel : Word := 0xFFFFFFF8

/-- `RESET_LR` (R7, R44). -/
def resetLr : Word := 0xFFFFFFFF

/-- `VEC_SP_OFF` (R7). -/
def vecSpOff : Word := 0x00

/-- `VEC_RESET_OFF` (R7). -/
def vecResetOff : Word := 0x04

/-- `VEC_TICK_OFF` (R7). -/
def vecTickOff : Word := 0x3C

/-- `VEC_DMA_OFF` (R7). -/
def vecDmaOff : Word := 0x58

/-- How deep memory accesses may nest (handler calls and DMA triggers inside accesses) before the
step counts as hung (R397, R437, D25; log entry 7). -/
def nestingFuel : Nat := 65536

/-- How many exception exits one step may make before it counts as hung (R148, R437, D25; log
entry 7). -/
def exitFuel : Nat := 134217728

/-- The defaults of R8. `TICK_THRESHOLD` has no default there: 48000 is a DESIGN CHOICE that no
statement rests on (log entry 2). -/
def defaultConfig : Config where
  romSize := 0x40000
  ramSize := 0x8000
  tickThreshold := 48000
  statusStubs := []
  dmaChidAddr := 0x4100483F
  dmaBaseAddr := 0x41004834
  dmaTriggerAddr := 0x41004840
  dmaChStatusAddr := 0x4100484E
  dmaChStatusValue := 0x00000002
  dmaDescStride := 16
  dmaCntOff := 2
  dmaCntWidth := .half
  dmaSrcOff := 4
  dmaDstOff := 8
  dmaNextOff := 12

end Sys2Proof.Machine
end

