-- ==== Sys2Proof/Machine/Memory.lean ====
section
/-! DEFINITION. Sparse data by address, in one canonical form: lists with strictly rising
addresses. A backing array (spec 10_state.md R38) is such a list that lists no byte equal to the
fill value; the handler maps (R41) use the same lists. Also the little-endian byte order of R61. -/

namespace Sys2Proof.Machine

/-- What is held at address `a`. -/
def lookupKey {α : Type} : List (Nat × α) → Nat → Option α
  | [], _ => none
  | c :: cs, a => if c.1 = a then some c.2 else lookupKey cs a

/-- Hold `v` at address `a`, in place of what was held there. -/
def insertKey {α : Type} (a : Nat) (v : α) : List (Nat × α) → List (Nat × α)
  | [] => [(a, v)]
  | c :: cs =>
    if a < c.1 then (a, v) :: c :: cs
    else if c.1 = a then (a, v) :: cs
    else c :: insertKey a v cs

/-- Hold nothing at address `a`. -/
def eraseKey {α : Type} (a : Nat) (m : List (Nat × α)) : List (Nat × α) :=
  m.filter fun c => c.1 != a

/-- The addresses rise strictly. -/
abbrev risingKeys {α : Type} (m : List (Nat × α)) : Prop :=
  m.Pairwise fun c d => c.1 < d.1

/-- A backing array: the bytes that differ from the fill value, by absolute address. -/
abbrev Memory := List Host.Cell

/-- The byte at address `a`: an unlisted address reads as the fill value (R38, R64, R66). -/
def Memory.get (m : Memory) (a : Nat) : Byte :=
  (lookupKey m a).getD fillByte

/-- Write the byte at address `a`. Writing the fill value removes the entry. -/
def Memory.set (m : Memory) (a : Nat) (b : Byte) : Memory :=
  if b = fillByte then eraseKey a m else insertKey a b m

/-- The canonical form: addresses strictly rising, no entry equal to the fill value. -/
abbrev Memory.wf (m : Memory) : Prop :=
  risingKeys m ∧ ∀ c ∈ m, c.2 ≠ fillByte

/-- Write the bytes `bs` at consecutive addresses from `a` on. -/
def Memory.setBytes (m : Memory) (a : Nat) : List Byte → Memory
  | [] => m
  | b :: bs => (m.set a b).setBytes (a + 1) bs

/-- The number of bytes of an access (R75). -/
def widthBytes : Width → Nat
  | .byte => 1
  | .half => 2
  | .word => 4

/-- The value of bytes in memory order, least significant first (R61, R62). -/
def leValue : List Byte → Word
  | [] => 0
  | b :: bs => b.setWidth 32 ||| (leValue bs <<< (8 : Nat))

/-- The low `n` bytes of a value in memory order, least significant first (R61, R63). -/
def leBytes : Nat → Word → List Byte
  | 0, _ => []
  | n + 1, v => v.setWidth 8 :: leBytes n (v >>> (8 : Nat))

/-- The low `8n` bits of a value as a word: `v AND (2^(8n) - 1)` (R62, R63). -/
def keepLow : Width → Word → Word
  | .byte, v => v &&& 0x000000FF
  | .half, v => v &&& 0x0000FFFF
  | .word, v => v

end Sys2Proof.Machine
end

