-- ==== Sys2Proof/Machine/State.lean ====
section
/-! DEFINITION. The state of the block (spec 10_state.md R20), the reasons a step can stop, and the
state after reset. Everything is plain data. -/

namespace Sys2Proof.Machine

/-- The four condition flags (R27): separate cells, not a register. -/
structure Flags where
  n : Bool
  z : Bool
  c : Bool
  v : Bool
deriving DecidableEq, Repr

/-- The name of one flag, for the flag accessors of handlers and host (R31). -/
inductive FlagName
  | n
  | z
  | c
  | v
deriving DecidableEq, Repr

/-- The decoded-instruction cache (R40), held as what it was decoded from: `DecodeAll` is a pure
function of the ROM bytes and the configuration (30_encoding.md R130, R132; log entry 5). -/
inductive ICache
  /-- No entries: the block was constructed and no image loaded (R45). -/
  | empty
  /-- The entries that `DecodeAll` makes of a ROM holding `image`. -/
  | decoded (image : Memory)
deriving DecidableEq, Repr

/-- The two interrupt sources (60_exceptions.md R361). -/
inductive Source
  | dma
  | tick
deriving DecidableEq, Repr

/-- An entry of the read half of the Peripheral Dispatch Registry (R41, R70). -/
inductive ReadHandler
  /-- The DMA sequencer's channel status register (R395). -/
  | dmaStatus
  /-- A handler of the environment (R6). -/
  | env
deriving DecidableEq, Repr

/-- An entry of the write half of the Peripheral Dispatch Registry (R41, R70). -/
inductive WriteHandler
  /-- The channel-id register (R391). -/
  | dmaChid
  /-- The descriptor-base register (R391). -/
  | dmaBase
  /-- The transfer trigger (R392). -/
  | dmaTrigger
  /-- A handler of the environment (R6). -/
  | env
deriving DecidableEq, Repr

/-- What a handler of the environment may do to the block while it runs (20_memory.md R74). Reading a
register or a flag has no effect on the block and is not listed. -/
inductive EnvCall
  /-- `MemRead`, which may call further handlers. -/
  | read (addr : Word) (width : Width)
  /-- `MemWrite`, which may call further handlers and start DMA transfers. -/
  | write (addr : Word) (width : Width) (value : Word)
  /-- `signal_dma_interrupt()` (R366). -/
  | signalDma
  /-- The register accessor (R26). -/
  | setReg (r : Reg) (value : Word)
  /-- The flag accessor (R31). -/
  | setFlag (f : FlagName) (value : Bool)
deriving DecidableEq, Repr

/-- One call of a handler of the environment: what it does, in order, and what it answers. The answer
of a write handler is not used. -/
structure EnvReply where
  calls : List EnvCall
  answer : Word
deriving DecidableEq, Repr

/-- The output of the block: the step tags and diagnostics of 40_step_engine.md R146 and the handler
calls of 20_memory.md R77. No rule reads it (R46; log entry 9). -/
inductive Event
  /-- The step was an exception entry for this source. -/
  | entered (src : Source)
  /-- The step performed an exception exit. -/
  | exited
  /-- The step executed this instruction. -/
  | executed (i : Instr)
  /-- "unrecognised instruction at A" (R145). -/
  | unrecognised (a : Word)
  /-- A read handler of the environment was called with this address (R71). -/
  | handlerRead (a : Word)
  /-- A write handler of the environment was called with this address and value (R72). -/
  | handlerWrite (a : Word) (v : Word)
  /-- "unmapped MMIO read" (R71). -/
  | unmappedRead (a : Word)
  /-- "unmapped MMIO write" (R72). -/
  | unmappedWrite (a : Word)
  /-- "write to ROM ignored" (R63, R65). -/
  | romWrite (a : Word)
deriving DecidableEq, Repr

/-- The complete state (R20), with the model's own fields `cfg`, `env`, `envCount` and `trace`. -/
structure State where
  /-- The configuration record of R8; no step changes it (log entry 1). -/
  cfg : Config
  /-- `x[0..15]` (R21). -/
  regs : Vector Word 16
  /-- `N, Z, C, V` (R27). -/
  flags : Flags
  /-- `rom`: the bytes of the ROM backing array that are not the fill value (R38). -/
  rom : Memory
  /-- `ram`: the bytes of the RAM backing array that are not the fill value, at their absolute
  addresses (R38). -/
  ram : Memory
  /-- `icache` (R40). -/
  icache : ICache
  /-- `vec_tick` (R33). -/
  vecTick : Word
  /-- `vec_dma` (R33). -/
  vecDma : Word
  /-- `tick_count`, an integer below `TICK_THRESHOLD` between steps (R34). -/
  tickCount : Nat
  /-- `tick_pending` (R35). -/
  tickPending : Bool
  /-- `dma_pending` (R35). -/
  dmaPending : Bool
  /-- `exc_active` (R36). -/
  excActive : Bool
  /-- `dma_chid` (R37). -/
  dmaChid : Word
  /-- `dma_base` (R37). -/
  dmaBase : Word
  /-- `dma_cur_desc` (R37). -/
  dmaCurDesc : Word
  /-- `read_handler`, by address, addresses rising (R41). -/
  readHandlers : List (Nat × ReadHandler)
  /-- `write_handler`, by address, addresses rising (R41). -/
  writeHandlers : List (Nat × WriteHandler)
  /-- What the environment's handlers will do, one entry per call (log entry 6). -/
  env : List EnvReply
  /-- How many handler calls were made beyond the entries of `env` (log entry 6). -/
  envCount : Nat
  /-- The output, newest first (log entry 9). -/
  trace : List Event
deriving DecidableEq, Repr

/-- Why a step does not end. The hardware has no fault (60_exceptions.md R360); these are the two
places where the spec asks a model for fuel and a hang result (70_reset_and_hazards.md R437, D25). -/
inductive Fault
  /-- Raised by a memory access that nests handler calls and DMA triggers deeper than
  `nestingFuel` (R397, U6). Safe: the model stops where the hardware may go on (log entry 7). -/
  | accessHang
  /-- Raised by a step that makes more than `exitFuel` exception exits (R148, R376). Safe: the model
  stops where the hardware may go on (log entry 7). -/
  | exitHang
deriving DecidableEq, Repr

/-- Why an instruction has no meaning. No instruction of this model is refused. -/
inductive Refusal
  /-- Raised by `exec` for an instruction whose meaning is not written yet. Safe. -/
  | notModelled (mnemonic : String)
deriving DecidableEq, Repr

/-- What executing an instruction, or a step, answers. -/
abbrev Result := Host.Outcome State Fault Refusal

/-- The block right after construction, which is `reset(0)` on memory of fill bytes (R44, R45,
70_reset_and_hazards.md R422): no image is loaded, the decoded cache is empty and the registry holds
the DMA sequencer's four entries (60_exceptions.md R390). -/
def State.reset : State where
  cfg := defaultConfig
  regs := #v[0, 0, 0, 0, 0, 0, 0, 0, 0, 0, 0, 0, 0, 0xFFFFFFFF, 0xFFFFFFFF, 0x00000000]
  flags := ⟨false, false, false, false⟩
  rom := []
  ram := []
  icache := .empty
  vecTick := 0xFFFFFFFF
  vecDma := 0xFFFFFFFF
  tickCount := 0
  tickPending := false
  dmaPending := false
  excActive := false
  dmaChid := 0
  dmaBase := 0
  dmaCurDesc := 0
  readHandlers := [(0x4100484E, .dmaStatus)]
  writeHandlers := [(0x41004834, .dmaBase), (0x4100483F, .dmaChid), (0x41004840, .dmaTrigger)]
  env := []
  envCount := 0
  trace := []

end Sys2Proof.Machine
end

