-- ==== Sys2Proof/Machine/Flags.lean ====
section
/-! DEFINITION. The adder, the flag rules, the shifts and the condition predicates (spec
41_alu_flags.md). -/

namespace Sys2Proof.Machine

/-- What the adder returns (R160). -/
structure Sum where
  result : Word
  carry : Bool
  overflow : Bool
deriving DecidableEq, Repr

/-- `AddWithCarry(a, b, cin)`: the sum as an unbounded integer, narrowed at the end (R160). -/
def addWithCarry (a b : Word) (cin : Bool) : Sum :=
  let usum := a.toNat + b.toNat + cin.toNat
  let result := BitVec.ofNat 32 usum
  { result := result
    carry := decide (0xFFFFFFFF < usum)
    overflow := a.msb == b.msb && result.msb != a.msb }

/-- `a - b`, as addition of the complement with carry in (R161). -/
def subtract (a b : Word) : Sum := addWithCarry a (~~~b) true

/-- `SetNZ(r)`: N and Z from a result, C and V kept (R162). -/
def setNZ (f : Flags) (r : Word) : Flags := { f with n := r.msb, z := r == 0 }

/-- `SetNZ(r); C <- c`: the flags of a shift, V kept (R163, R190). -/
def setNZC (f : Flags) (r : Word) (c : Bool) : Flags := { f with n := r.msb, z := r == 0, c := c }

/-- `SetNZCV(r, c, v)` from the adder's outputs (R162). -/
def setNZCV (x : Sum) : Flags :=
  { n := x.result.msb, z := x.result == 0, c := x.carry, v := x.overflow }

/-- What a shift computes: the result and the carry. -/
structure Shifted where
  result : Word
  carry : Bool
deriving DecidableEq, Repr

/-- Logical shift left by `n` places, `cold` the carry before (R164; R163 with `n = imm5`). -/
def shiftLeft (v : Word) (n : Nat) (cold : Bool) : Shifted :=
  if n = 0 then ⟨v, cold⟩
  else if n ≤ 32 then ⟨v <<< n, v.getLsbD (32 - n)⟩
  else ⟨0, false⟩

/-- Logical shift right by `n` places, `cold` the carry before (R164; R163 with `n` 1 to 32). -/
def shiftRight (v : Word) (n : Nat) (cold : Bool) : Shifted :=
  if n = 0 then ⟨v, cold⟩
  else if n ≤ 32 then ⟨v >>> n, v.getLsbD (n - 1)⟩
  else ⟨0, false⟩

/-- Arithmetic shift right by `n` places, `cold` the carry before (R164; R163 with `n` 1 to 32). -/
def shiftRightArith (v : Word) (n : Nat) (cold : Bool) : Shifted :=
  if n = 0 then ⟨v, cold⟩
  else if n < 32 then ⟨v.sshiftRight n, v.getLsbD (n - 1)⟩
  else ⟨if v.msb then 0xFFFFFFFF else 0, v.msb⟩

/-- The amount of an immediate right shift: the field 0 means 32 (R163). -/
def rightAmount (imm5 : BitVec 5) : Nat := if imm5.toNat = 0 then 32 else imm5.toNat

/-- The amount of a shift by a register: its low byte (R164). -/
def regAmount (v : Word) : Nat := v.toNat % 256

/-- The fourteen conditions of R170. -/
inductive Cond
  | eq
  | ne
  | cs
  | cc
  | mi
  | pl
  | vs
  | vc
  | hi
  | ls
  | ge
  | lt
  | gt
  | le
deriving DecidableEq, Repr

/-- `Cond(cccc)`: the predicate of a condition over the flags (R170). -/
def condHolds (c : Cond) (f : Flags) : Bool :=
  match c with
  | .eq => f.z
  | .ne => !f.z
  | .cs => f.c
  | .cc => !f.c
  | .mi => f.n
  | .pl => !f.n
  | .vs => f.v
  | .vc => !f.v
  | .hi => f.c && !f.z
  | .ls => !f.c || f.z
  | .ge => f.n == f.v
  | .lt => f.n != f.v
  | .gt => !f.z && f.n == f.v
  | .le => f.z || f.n != f.v

/-- `PsrImage()`: N, Z, C, V in bits 31 to 28, the other bits 0 (10_state.md R30). -/
def psrImage (f : Flags) : Word :=
  (BitVec.ofBool f.n ++ BitVec.ofBool f.z ++ BitVec.ofBool f.c ++ BitVec.ofBool f.v : BitVec 4) ++ (0 : BitVec 28)

/-- The flags read back from a stacked word; bits 27 to 0 are ignored (R30). -/
def flagsOfPsr (w : Word) : Flags :=
  { n := w.getLsbD 31, z := w.getLsbD 30, c := w.getLsbD 29, v := w.getLsbD 28 }

/-- Write one flag (R31). -/
def writeFlag (f : Flags) (name : FlagName) (b : Bool) : Flags :=
  match name with
  | .n => { f with n := b }
  | .z => { f with z := b }
  | .c => { f with c := b }
  | .v => { f with v := b }

end Sys2Proof.Machine
end

