-- ==== Sys2Proof/Machine/Operands.lean ====
section
/-! DEFINITION. How operands are assembled: the immediates of spec 30_encoding.md R122, the register
lists of 00_scope.md R12, and the byte rearrangements of 46_address_sp_extend_reverse.md. -/

namespace Sys2Proof.Machine

/-- An unsigned immediate: `zext(imm)` (R122). -/
def immZext {n : Nat} (imm : BitVec n) : Word := imm.setWidth 32

/-- An unsigned immediate scaled by 4: F6, F7b word, F9, F10, F11 (R122). -/
def immTimes4 {n : Nat} (imm : BitVec n) : Word := imm.setWidth 32 <<< (2 : Nat)

/-- An unsigned immediate scaled by 2: F8b (R122). -/
def immTimes2 {n : Nat} (imm : BitVec n) : Word := imm.setWidth 32 <<< (1 : Nat)

/-- A branch offset: `sext(imm : 0)`, F16 and F17 (R122). -/
def branchOffset {n : Nat} (imm : BitVec n) : Word := imm.signExtend 32 <<< (1 : Nat)

/-- The high part of a long branch offset: `sext_11(imm11) << 12`, F18 prefix (R122). -/
def longOffsetHigh (imm11 : BitVec 11) : Word := imm11.signExtend 32 <<< (12 : Nat)

/-- The low part of a long branch offset: `zext(imm11) << 1`, F18 suffix (R122). -/
def longOffsetLow (imm11 : BitVec 11) : Word := imm11.setWidth 32 <<< (1 : Nat)

/-- The listed registers of an 8-bit list, in ascending order (R12, R305). -/
def listedRegs (rlist : BitVec 8) : List Reg :=
  ([0, 1, 2, 3, 4, 5, 6, 7] : List Reg).filter fun r => rlist.getLsbD r.val

/-- The number of bytes that `k` registers take: `4 * count` (R300 to R303). -/
def listBytes (k : Nat) : Word := BitVec.ofNat 32 (4 * k)

/-- A word-aligned base: `v AND 0xFFFF_FFFC` (R250, R280). -/
def wordAligned (v : Word) : Word := v &&& 0xFFFFFFFC

/-- `sext_16` of the low halfword (R284). -/
def sextHalf (v : Word) : Word := (v.setWidth 16).signExtend 32

/-- `sext_8` of the low byte (R285). -/
def sextByte (v : Word) : Word := (v.setWidth 8).signExtend 32

/-- Byte `k` of a word, `b_k` of F13 (R288). -/
def byteOf (v : Word) (k : Nat) : Byte := v.extractLsb' (8 * k) 8

/-- `b0:b1:b2:b3` (R288). -/
def revWord (v : Word) : Word := byteOf v 0 ++ byteOf v 1 ++ byteOf v 2 ++ byteOf v 3

/-- `b2:b3:b0:b1` (R289). -/
def revHalves (v : Word) : Word := byteOf v 2 ++ byteOf v 3 ++ byteOf v 0 ++ byteOf v 1

/-- `sext_16(b0:b1)` (R290). -/
def revSignedHalf (v : Word) : Word := (byteOf v 0 ++ byteOf v 1).signExtend 32

end Sys2Proof.Machine
end

