-- ==== Sys2Proof/Machine/Ops.lean ====
section
/-! DEFINITION. The named operations over registers and memory: the accessors, the branch primitive,
`MemRead` and `MemWrite` with their routing, the Peripheral Dispatch Registry, the DMA transfer,
multi-word transfers, and exception entry and exit. -/

namespace Sys2Proof.Machine

/-! ### Registers, flags, output -/

/-- Read register `r` (00_scope.md R11). While an instruction at `A` executes, `x[15]` holds `A + 4`
(40_step_engine.md R142). -/
def State.reg (s : State) (r : Reg) : Word := s.regs[r.val]

/-- `x[r] <- v`, raw, for every register (R11). -/
def State.setReg (s : State) (r : Reg) (v : Word) : State := { s with regs := s.regs.set r.val v }

/-- Replace the four flags. -/
def State.setFlags (s : State) (f : Flags) : State := { s with flags := f }

/-- Append to the output (R46, R146). -/
def State.emit (s : State) (e : Event) : State := { s with trace := e :: s.trace }

/-- `pc <- target`: bit 0 cleared, the pipeline offset added (R143). -/
def branch (target : Word) (s : State) : State :=
  s.setReg pc ((target &&& 0xFFFFFFFE) + pipe)

/-- `signal_dma_interrupt()` (60_exceptions.md R366). -/
def signalDma (s : State) : State := { s with dmaPending := true }

/-! ### Routing and backed bytes -/

/-- The regions of the address space (20_memory.md R60). -/
inductive Region
  | rom
  | ram
  | mmio
  | unmodelled
deriving DecidableEq, Repr

/-- The region that serves an access, by its start address (R60, D4). -/
def region (a : Word) : Region :=
  if a.toNat < ramBase then .rom
  else if a.toNat < mmioBase then .ram
  else if a.toNat < mmioLimit then .mmio
  else .unmodelled

/-- `RomByte(o)`: 0 beyond the backing array (R62, R64). -/
def romByte (s : State) (o : Nat) : Byte := if o < s.cfg.romSize then s.rom.get o else 0

/-- `RamByte(o)`: 0 beyond the backing array (R62, R66). -/
def ramByte (s : State) (o : Nat) : Byte := if o < s.cfg.ramSize then s.ram.get (ramBase + o) else 0

/-- The `n` bytes that `byteAt` gives from offset `o` on; the offsets do not wrap (R69). -/
def bytesFrom (byteAt : Nat → Byte) (o : Nat) : Nat → List Byte
  | 0 => []
  | n + 1 => byteAt o :: bytesFrom byteAt (o + 1) n

/-- What a read of `n` bytes at `a` gives outside MMIO (R62, R64, R66, R67). -/
def plainRead (s : State) (a : Word) (w : Width) : Word :=
  match region a with
  | .rom => leValue (bytesFrom (romByte s) a.toNat (widthBytes w))
  | .ram => leValue (bytesFrom (ramByte s) (a.toNat - ramBase) (widthBytes w))
  | .mmio => 0
  | .unmodelled => 0

/-- Write bytes to RAM from offset `o` on; bytes at or beyond `ramSize` are dropped (R63, R66). -/
def ramWrite (ramSize : Nat) (m : Memory) (o : Nat) : List Byte → Memory
  | [] => m
  | b :: bs => ramWrite ramSize (if o < ramSize then m.set (ramBase + o) b else m) (o + 1) bs

/-- Store the low bytes of `v` in RAM at address `a` (R63, R66). -/
def storeRam (a : Word) (w : Width) (v : Word) (s : State) : State :=
  { s with ram := ramWrite s.cfg.ramSize s.ram (a.toNat - ramBase) (leBytes (widthBytes w) v) }

/-! ### Memory accesses -/

/-- One `MemRead` or `MemWrite`. -/
inductive Access
  | read (a : Word) (w : Width)
  | write (a : Word) (w : Width) (v : Word)
deriving DecidableEq, Repr

/-- How an access made inside another access is performed. A write answers 0. -/
abbrev Bus := Access → State → Except Fault (Word × State)

/-- A nested read: the value and the state after it. -/
def busRead (bus : Bus) (a : Word) (w : Width) (s : State) : Except Fault (Word × State) :=
  bus (.read a w) s

/-- A nested write: the state after it. -/
def busWrite (bus : Bus) (a : Word) (w : Width) (v : Word) (s : State) : Except Fault State :=
  (bus (.write a w v) s).map Prod.snd

/-- What the next handler of the environment does: the next entry of `env`, or, when there is none, a
free answer and no calls (DESIGN CHOICE, log entry 6). -/
def nextReply (s : State) : EnvReply × State :=
  match s.env with
  | r :: rest => (r, { s with env := rest })
  | [] => (⟨[], Config.envAnswer s.envCount⟩, { s with envCount := s.envCount + 1 })

/-- One call a handler makes into the block (R74). -/
def runCall (bus : Bus) (s : State) : EnvCall → Except Fault State
  | .read a w => (busRead bus a w s).map Prod.snd
  | .write a w v => busWrite bus a w v s
  | .signalDma => .ok (signalDma s)
  | .setReg r v => .ok (s.setReg r v)
  | .setFlag f b => .ok (s.setFlags (writeFlag s.flags f b))

/-- The calls a handler makes, in order (R74). -/
def runCalls (bus : Bus) : List EnvCall → State → Except Fault State
  | [], s => .ok s
  | c :: cs, s => (runCall bus s c).bind (runCalls bus cs)

/-- Run a handler of the environment to completion inside the access that invoked it (R74). -/
def runHandler (bus : Bus) (s : State) : Except Fault (Word × State) :=
  (runCalls bus (nextReply s).1.calls (nextReply s).2).map fun s' => ((nextReply s).1.answer, s')

/-- `DescAddr()` (60_exceptions.md R393). -/
def descAddr (s : State) : Word :=
  if s.dmaCurDesc = 0 then s.dmaBase + s.dmaChid * s.cfg.dmaDescStride else s.dmaCurDesc

/-- The byte loop of a transfer: `n` bytes, each read and then written, both addresses rising by 1
(R394). -/
def copyBytes (bus : Bus) : Nat → Word → Word → State → Except Fault State
  | 0, _, _, s => .ok s
  | n + 1, src, dst, s =>
    (busRead bus src .byte s).bind fun r =>
    (busWrite bus dst .byte r.1 r.2).bind fun s' =>
    copyBytes bus n (src + 1) (dst + 1) s'

/-- The end of a transfer: advance the chain and signal completion (R394). -/
def finishTransfer (next : Word) (s : State) : State := signalDma { s with dmaCurDesc := next }

/-- `DmaTransfer()` (R394): four descriptor reads, the byte loop, then the chain pointer and the
completion signal. The descriptor address is resolved once, at the start. -/
def dmaTransfer (bus : Bus) (s : State) : Except Fault State :=
  let d := descAddr s
  (busRead bus (d + s.cfg.dmaCntOff) s.cfg.dmaCntWidth s).bind fun count =>
  (busRead bus (d + s.cfg.dmaSrcOff) .word count.2).bind fun src =>
  (busRead bus (d + s.cfg.dmaDstOff) .word src.2).bind fun dst =>
  (busRead bus (d + s.cfg.dmaNextOff) .word dst.2).bind fun next =>
  (copyBytes bus count.1.toNat src.1 dst.1 next.2).map (finishTransfer next.1)

/-- `MmioRead(addr)` (20_memory.md R71): a status stub, else a registered handler, else 0. -/
def mmioRead (bus : Bus) (a : Word) (s : State) : Except Fault (Word × State) :=
  match lookupKey s.cfg.statusStubs a.toNat with
  | some v => .ok (v, s)
  | none =>
    match lookupKey s.readHandlers a.toNat with
    | some .dmaStatus => .ok (s.cfg.dmaChStatusValue, s)
    | some .env => runHandler bus (s.emit (.handlerRead a))
    | none => .ok (0, s.emit (.unmappedRead a))

/-- `MmioWrite(addr, v)` (R72): a registered handler, else the write is dropped. -/
def mmioWrite (bus : Bus) (a : Word) (v : Word) (s : State) : Except Fault State :=
  match lookupKey s.writeHandlers a.toNat with
  | some .dmaChid => .ok { s with dmaChid := v }
  | some .dmaBase => .ok { s with dmaBase := v }
  | some .dmaTrigger => dmaTransfer bus s
  | some .env => (runHandler bus (s.emit (.handlerWrite a v))).map Prod.snd
  | none => .ok (s.emit (.unmappedWrite a))

/-- One access, routed as a whole by its start address (R60, R62, R63). -/
def accessWith (bus : Bus) : Access → State → Except Fault (Word × State)
  | .read a w, s =>
    match region a with
    | .mmio => (mmioRead bus a s).map fun r => (keepLow w r.1, r.2)
    | .rom => .ok (plainRead s a w, s)
    | .ram => .ok (plainRead s a w, s)
    | .unmodelled => .ok (plainRead s a w, s)
  | .write a w v, s =>
    match region a with
    | .rom => .ok (0, s.emit (.romWrite a))
    | .ram => .ok (0, storeRam a w v s)
    | .mmio => (mmioWrite bus a (keepLow w v) s).map fun s' => (0, s')
    | .unmodelled => .ok (0, s)

/-- An access that may nest at most `fuel` deep; deeper is a hang (R397, R437, D25). -/
def access : Nat → Bus
  | 0 => fun _ _ => .error .accessHang
  | fuel + 1 => accessWith (access fuel)

/-- `MemRead(addr, n)` (R62). -/
def memRead (a : Word) (w : Width) (s : State) : Except Fault (Word × State) :=
  busRead (access nestingFuel) a w s

/-- `MemWrite(addr, n, v)` (R63). -/
def memWrite (a : Word) (w : Width) (v : Word) (s : State) : Except Fault State :=
  busWrite (access nestingFuel) a w v s

/-! ### What an instruction answers -/

/-- The answer of an instruction that may hang in an access. -/
def answer : Except Fault State → Result
  | .ok s => .next s
  | .error f => .fault f

/-- `x[d] <- r; SetNZCV(r, c, v)` (41_alu_flags.md R162). -/
def writeSum (rd : Reg) (x : Sum) (s : State) : Result :=
  .next ((s.setReg rd x.result).setFlags (setNZCV x))

/-- `SetNZCV(r, c, v)` with no register written: the compares (R162). -/
def compareSum (x : Sum) (s : State) : Result := .next (s.setFlags (setNZCV x))

/-- `x[d] <- r; SetNZ(r)`: the logical operations (R162). -/
def writeLogical (rd : Reg) (r : Word) (s : State) : Result :=
  .next ((s.setReg rd r).setFlags (setNZ s.flags r))

/-- `x[d] <- result; SetNZ(result); C <- carry`: the shifts (R163, R164). -/
def writeShift (rd : Reg) (x : Shifted) (s : State) : Result :=
  .next ((s.setReg rd x.result).setFlags (setNZC s.flags x.result x.carry))

/-- `x[d] <- v` and no flag. -/
def writeReg (rd : Reg) (v : Word) (s : State) : Result := .next (s.setReg rd v)

/-- `if d == 15: pc <- v else x[d] <- v` (44_hireg_bx.md R240, R242). -/
def writeRegOrBranch (rd : Reg) (v : Word) (s : State) : Result :=
  .next (if rd = pc then branch v s else s.setReg rd v)

/-- A conditional branch: `if Cond(cccc): pc <- A + 4 + offset` (48_branch.md R310). -/
def condBranch (c : Cond) (imm8 : BitVec 8) (s : State) : Result :=
  .next (if condHolds c s.flags then branch (s.reg pc + branchOffset imm8) s else s)

/-- The execution of a two-halfword stub: skip the second halfword (49_system_noop.md R346). -/
def skipSecondHalf (s : State) : Result := .next (s.setReg pc (s.reg pc + 2))

/-- A load: read, extend, then write `Rt` (45_load_store.md R267, R268). -/
def loadInto (a : Word) (w : Width) (extend : Word → Word) (rt : Reg) (s : State) : Result :=
  answer ((memRead a w s).map fun r => r.2.setReg rt (extend r.1))

/-- A store (R267, R268). -/
def storeFrom (a : Word) (w : Width) (v : Word) (s : State) : Result :=
  answer (memWrite a w v s)

/-! ### Multi-word transfers -/

/-- Store registers at consecutive word addresses, in list order (47_push_pop_multiple.md R305). -/
def storeMany : List Reg → Word → State → Except Fault State
  | [], _, s => .ok s
  | r :: rs, a, s => (memWrite a .word (s.reg r) s).bind (storeMany rs (a + 4))

/-- Load registers from consecutive word addresses, in list order (R305). -/
def loadMany : List Reg → Word → State → Except Fault State
  | [], _, s => .ok s
  | r :: rs, a, s => (memRead a .word s).bind fun x => loadMany rs (a + 4) (x.2.setReg r x.1)

/-! ### Exception entry and exit -/

/-- `Push(v)` of exception entry: the stack pointer moves first (60_exceptions.md R370). -/
def pushWord (v : Word) (s : State) : Except Fault State :=
  let s1 := s.setReg sp (s.reg sp - 4)
  memWrite (s1.reg sp) .word v s1

/-- `Pop()` of exception exit: the stack pointer moves after the read (R375). -/
def popWord (s : State) : Except Fault (Word × State) :=
  (memRead (s.reg sp) .word s).map fun r => (r.1, r.2.setReg sp (r.2.reg sp + 4))

/-- Push registers, in list order (R370). -/
def pushRegs : List Reg → State → Except Fault State
  | [], s => .ok s
  | r :: rs, s => (pushWord (s.reg r) s).bind (pushRegs rs)

/-- Pop registers, in list order (R375). -/
def popRegs : List Reg → State → Except Fault State
  | [], s => .ok s
  | r :: rs, s => (popWord s).bind fun x => popRegs rs (x.2.setReg r x.1)

/-- TAKING AN EXCEPTION, `ExceptionEntry(vector)` (R370): the PSR image, then `x[15]`, `x[14]`,
`x[12]`, `x[3]`, `x[2]`, `x[1]`, `x[0]` are pushed; the program counter goes to the vector, the link
register gets the sentinel, and the machine is InException. -/
def exceptionEntry (vector : Word) (s : State) : Except Fault State :=
  (pushWord (psrImage s.flags) s).bind fun s1 =>
  (pushRegs [pc, lr, 12, 3, 2, 1, 0] s1).map fun s2 =>
  { (branch vector s2).setReg lr sentinel with excActive := true }

/-- RETURNING FROM ONE, `ExceptionExit()` (R375): the reverse of entry. The popped program counter has
bit 0 cleared and no offset added, since the stacked value includes it. -/
def exceptionExit (s : State) : Except Fault State :=
  (popRegs [0, 1, 2, 3, 12, lr] s).bind fun s1 =>
  (popWord s1).bind fun p =>
  (popWord (p.2.setReg pc (p.1 &&& 0xFFFFFFFE))).map fun w =>
  { w.2.setFlags (flagsOfPsr w.1) with excActive := false }

end Sys2Proof.Machine
end

