-- ==== Sys2Proof/Machine/AddrExtend.lean ====
section
/-! DEFINITION. Load address, SP adjust, sign/zero extend, byte-reverse: formats F10 to F13 (spec
46_address_sp_extend_reverse.md). No flag, no memory access. -/

namespace Sys2Proof.Machine

/-- ADR: the base is `A + 4` aligned down to a word (R280). -/
def execAdr (rd : Reg) (imm8 : BitVec 8) (s : State) : Result :=
  writeReg rd (wordAligned (s.reg pc) + immTimes4 imm8) s

/-- ADD Rd, SP, #imm (R281). -/
def execAddRdSp (rd : Reg) (imm8 : BitVec 8) (s : State) : Result :=
  writeReg rd (s.reg sp + immTimes4 imm8) s

/-- ADD SP, #imm (R282). -/
def execAddSpImm7 (imm7 : BitVec 7) (s : State) : Result :=
  writeReg sp (s.reg sp + immTimes4 imm7) s

/-- SUB SP, #imm (R283). -/
def execSubSpImm7 (imm7 : BitVec 7) (s : State) : Result :=
  writeReg sp (s.reg sp - immTimes4 imm7) s

/-- SXTH (R284). -/
def execSxth (rd rm : Reg) (s : State) : Result :=
  writeReg rd (sextHalf (s.reg rm)) s

/-- SXTB (R285). -/
def execSxtb (rd rm : Reg) (s : State) : Result :=
  writeReg rd (sextByte (s.reg rm)) s

/-- UXTH (R286). -/
def execUxth (rd rm : Reg) (s : State) : Result :=
  writeReg rd (keepLow .half (s.reg rm)) s

/-- UXTB (R287). -/
def execUxtb (rd rm : Reg) (s : State) : Result :=
  writeReg rd (keepLow .byte (s.reg rm)) s

/-- REV (R288). -/
def execRev (rd rm : Reg) (s : State) : Result :=
  writeReg rd (revWord (s.reg rm)) s

/-- REV16 (R289). -/
def execRev16 (rd rm : Reg) (s : State) : Result :=
  writeReg rd (revHalves (s.reg rm)) s

/-- REVSH (R290). -/
def execRevsh (rd rm : Reg) (s : State) : Result :=
  writeReg rd (revSignedHalf (s.reg rm)) s

end Sys2Proof.Machine
end

