-- ==== Sys2Proof/Machine/AluReg.lean ====
section
/-! DEFINITION. ALU register-register operations: format F4 (spec 43_alu_register.md). -/

namespace Sys2Proof.Machine

/-- AND (R210). -/
def execAndReg (rdn rm : Reg) (s : State) : Result :=
  writeLogical rdn (s.reg rdn &&& s.reg rm) s

/-- EOR (R211). -/
def execEorReg (rdn rm : Reg) (s : State) : Result :=
  writeLogical rdn (s.reg rdn ^^^ s.reg rm) s

/-- LSL (register): the amount is the low byte of `x[s]` (R212, R164). -/
def execLslReg (rdn rs : Reg) (s : State) : Result :=
  writeShift rdn (shiftLeft (s.reg rdn) (regAmount (s.reg rs)) s.flags.c) s

/-- LSR (register) (R213, R164). -/
def execLsrReg (rdn rs : Reg) (s : State) : Result :=
  writeShift rdn (shiftRight (s.reg rdn) (regAmount (s.reg rs)) s.flags.c) s

/-- ASR (register) (R214, R164). -/
def execAsrReg (rdn rs : Reg) (s : State) : Result :=
  writeShift rdn (shiftRightArith (s.reg rdn) (regAmount (s.reg rs)) s.flags.c) s

/-- ADC (R215). -/
def execAdcReg (rdn rm : Reg) (s : State) : Result :=
  writeSum rdn (addWithCarry (s.reg rdn) (s.reg rm) s.flags.c) s

/-- SBC: `x[d] - x[m] - (1 - C)` (R216). -/
def execSbcReg (rdn rm : Reg) (s : State) : Result :=
  writeSum rdn (addWithCarry (s.reg rdn) (~~~(s.reg rm)) s.flags.c) s

/-- ROR (register): a stub, no operation (R217, D13). -/
def execRorReg (_rdn _rs : Reg) (s : State) : Result :=
  .next s

/-- TST: no register written (R218). -/
def execTstReg (rn rm : Reg) (s : State) : Result :=
  .next (s.setFlags (setNZ s.flags (s.reg rn &&& s.reg rm)))

/-- NEG: `0 - x[m]` (R219). -/
def execNegReg (rd rm : Reg) (s : State) : Result :=
  writeSum rd (subtract 0 (s.reg rm)) s

/-- CMP (register): no register written (R220). -/
def execCmpReg (rn rm : Reg) (s : State) : Result :=
  compareSum (subtract (s.reg rn) (s.reg rm)) s

/-- CMN: no register written (R221). -/
def execCmnReg (rn rm : Reg) (s : State) : Result :=
  compareSum (addWithCarry (s.reg rn) (s.reg rm) false) s

/-- ORR (R222). -/
def execOrrReg (rdn rm : Reg) (s : State) : Result :=
  writeLogical rdn (s.reg rdn ||| s.reg rm) s

/-- MUL: the low 32 bits of the product; C and V unchanged (R223, R176). -/
def execMulReg (rdn rm : Reg) (s : State) : Result :=
  writeLogical rdn (s.reg rdn * s.reg rm) s

/-- BIC (R224). -/
def execBicReg (rdn rm : Reg) (s : State) : Result :=
  writeLogical rdn (s.reg rdn &&& ~~~(s.reg rm)) s

/-- MVN (R225). -/
def execMvnReg (rd rm : Reg) (s : State) : Result :=
  writeLogical rd (~~~(s.reg rm)) s

end Sys2Proof.Machine
end

