-- ==== Sys2Proof/Machine/Branches.lean ====
section
/-! DEFINITION. Branches: formats F16, F17, F18 (spec 48_branch.md). -/

namespace Sys2Proof.Machine

/-- BEQ (R311). -/
def execBeq (imm8 : BitVec 8) (s : State) : Result :=
  condBranch .eq imm8 s

/-- BNE (R312). -/
def execBne (imm8 : BitVec 8) (s : State) : Result :=
  condBranch .ne imm8 s

/-- BCS (R313). -/
def execBcs (imm8 : BitVec 8) (s : State) : Result :=
  condBranch .cs imm8 s

/-- BCC (R314). -/
def execBcc (imm8 : BitVec 8) (s : State) : Result :=
  condBranch .cc imm8 s

/-- BMI (R315). -/
def execBmi (imm8 : BitVec 8) (s : State) : Result :=
  condBranch .mi imm8 s

/-- BPL (R316). -/
def execBpl (imm8 : BitVec 8) (s : State) : Result :=
  condBranch .pl imm8 s

/-- BVS (R317). -/
def execBvs (imm8 : BitVec 8) (s : State) : Result :=
  condBranch .vs imm8 s

/-- BVC (R318). -/
def execBvc (imm8 : BitVec 8) (s : State) : Result :=
  condBranch .vc imm8 s

/-- BHI (R319). -/
def execBhi (imm8 : BitVec 8) (s : State) : Result :=
  condBranch .hi imm8 s

/-- BLS (R320). -/
def execBls (imm8 : BitVec 8) (s : State) : Result :=
  condBranch .ls imm8 s

/-- BGE (R321). -/
def execBge (imm8 : BitVec 8) (s : State) : Result :=
  condBranch .ge imm8 s

/-- BLT (R322). -/
def execBlt (imm8 : BitVec 8) (s : State) : Result :=
  condBranch .lt imm8 s

/-- BGT (R323). -/
def execBgt (imm8 : BitVec 8) (s : State) : Result :=
  condBranch .gt imm8 s

/-- BLE (R324). -/
def execBle (imm8 : BitVec 8) (s : State) : Result :=
  condBranch .le imm8 s

/-- B (R325). -/
def execB (imm11 : BitVec 11) (s : State) : Result :=
  .next (branch (s.reg pc + branchOffset imm11) s)

/-- BL prefix: the link register gets the partial target (R326). -/
def execBlPrefix (imm11 : BitVec 11) (s : State) : Result :=
  writeReg lr (s.reg pc + longOffsetHigh imm11) s

/-- BL suffix: the target is computed before `x[14]` is overwritten, and the link is `(A + 2) OR 1`,
with `A + 2 = x[15] - 2` (R327). -/
def execBlSuffix (imm11 : BitVec 11) (s : State) : Result :=
  .next (branch (s.reg lr + longOffsetLow imm11) (s.setReg lr ((s.reg pc - 2) ||| 1)))

end Sys2Proof.Machine
end

