-- ==== Sys2Proof/Machine/HiReg.lean ====
section
/-! DEFINITION. Hi-register operations and branch-exchange: format F5 (spec 44_hireg_bx.md). A read of
`x[15]` gives `A + 4`, not word-aligned (R142). -/

namespace Sys2Proof.Machine

/-- ADD (hi register): no flag; `Rd = 15` branches (R240). -/
def execAddHi (rd rm : Reg) (s : State) : Result :=
  writeRegOrBranch rd (s.reg rd + s.reg rm) s

/-- CMP (hi register) (R241). -/
def execCmpHi (rn rm : Reg) (s : State) : Result :=
  compareSum (subtract (s.reg rn) (s.reg rm)) s

/-- MOV (hi register): no flag; `Rd = 15` branches (R242, conflict C9). -/
def execMovHi (rd rm : Reg) (s : State) : Result :=
  writeRegOrBranch rd (s.reg rm) s

/-- BX: bit 0 of the target is discarded (R243). -/
def execBx (rm : Reg) (s : State) : Result :=
  .next (branch (s.reg rm) s)

/-- BLX (register): the target is read before `x[14]` is written, and the link is `(A + 2) OR 1`, with
`A + 2 = x[15] - 2` (R244). -/
def execBlxReg (rm : Reg) (s : State) : Result :=
  .next (branch (s.reg rm) (s.setReg lr ((s.reg pc - 2) ||| 1)))

end Sys2Proof.Machine
end

