-- ==== Sys2Proof/Machine/LoadStore.lean ====
section
/-! DEFINITION. Single-register loads and stores: formats F6 to F9 (spec 45_load_store.md). One access
each, at the address as computed, no flag, no writeback (R267); widths and extension by R268. -/

namespace Sys2Proof.Machine

/-- LDR (literal): the base is `A + 4` aligned down to a word (R250). -/
def execLdrLit (rt : Reg) (imm8 : BitVec 8) (s : State) : Result :=
  loadInto (wordAligned (s.reg pc) + immTimes4 imm8) .word id rt s

/-- STR (register) (R251). -/
def execStrReg (rt rn rm : Reg) (s : State) : Result :=
  storeFrom (s.reg rn + s.reg rm) .word (s.reg rt) s

/-- STRH (register) (R255). -/
def execStrhReg (rt rn rm : Reg) (s : State) : Result :=
  storeFrom (s.reg rn + s.reg rm) .half (s.reg rt) s

/-- STRB (register) (R252). -/
def execStrbReg (rt rn rm : Reg) (s : State) : Result :=
  storeFrom (s.reg rn + s.reg rm) .byte (s.reg rt) s

/-- LDRSB (register) (R257). -/
def execLdrsbReg (rt rn rm : Reg) (s : State) : Result :=
  loadInto (s.reg rn + s.reg rm) .byte sextByte rt s

/-- LDR (register) (R253). -/
def execLdrReg (rt rn rm : Reg) (s : State) : Result :=
  loadInto (s.reg rn + s.reg rm) .word id rt s

/-- LDRH (register) (R256). -/
def execLdrhReg (rt rn rm : Reg) (s : State) : Result :=
  loadInto (s.reg rn + s.reg rm) .half id rt s

/-- LDRB (register) (R254). -/
def execLdrbReg (rt rn rm : Reg) (s : State) : Result :=
  loadInto (s.reg rn + s.reg rm) .byte id rt s

/-- LDRSH (register) (R258). -/
def execLdrshReg (rt rn rm : Reg) (s : State) : Result :=
  loadInto (s.reg rn + s.reg rm) .half sextHalf rt s

/-- STR (immediate) (R259). -/
def execStrImm5 (rt rn : Reg) (imm5 : BitVec 5) (s : State) : Result :=
  storeFrom (s.reg rn + immTimes4 imm5) .word (s.reg rt) s

/-- LDR (immediate) (R260). -/
def execLdrImm5 (rt rn : Reg) (imm5 : BitVec 5) (s : State) : Result :=
  loadInto (s.reg rn + immTimes4 imm5) .word id rt s

/-- STRB (immediate) (R261). -/
def execStrbImm5 (rt rn : Reg) (imm5 : BitVec 5) (s : State) : Result :=
  storeFrom (s.reg rn + immZext imm5) .byte (s.reg rt) s

/-- LDRB (immediate) (R262). -/
def execLdrbImm5 (rt rn : Reg) (imm5 : BitVec 5) (s : State) : Result :=
  loadInto (s.reg rn + immZext imm5) .byte id rt s

/-- STRH (immediate) (R263). -/
def execStrhImm5 (rt rn : Reg) (imm5 : BitVec 5) (s : State) : Result :=
  storeFrom (s.reg rn + immTimes2 imm5) .half (s.reg rt) s

/-- LDRH (immediate) (R264). -/
def execLdrhImm5 (rt rn : Reg) (imm5 : BitVec 5) (s : State) : Result :=
  loadInto (s.reg rn + immTimes2 imm5) .half id rt s

/-- STR (SP-relative): the base is used as held (R265, D16). -/
def execStrSp (rt : Reg) (imm8 : BitVec 8) (s : State) : Result :=
  storeFrom (s.reg sp + immTimes4 imm8) .word (s.reg rt) s

/-- LDR (SP-relative): the base is used as held (R266, D16). -/
def execLdrSp (rt : Reg) (imm8 : BitVec 8) (s : State) : Result :=
  loadInto (s.reg sp + immTimes4 imm8) .word id rt s

end Sys2Proof.Machine
end

