-- ==== Sys2Proof/Machine/Multiple.lean ====
section
/-! DEFINITION. Push, pop, load/store multiple: formats F14 and F15 (spec 47_push_pop_multiple.md). -/

namespace Sys2Proof.Machine

/-- The registers PUSH transfers: the listed ones and, with the R bit, the link register last (R300). -/
def pushList (rlist : BitVec 8) (lrBit : Bool) : List Reg :=
  listedRegs rlist ++ (if lrBit then [lr] else [])

/-- PUSH: the stack pointer is written once, after the stores (R300). -/
def execPush (rlist : BitVec 8) (lrBit : Bool) (s : State) : Result :=
  let regs := pushList rlist lrBit
  let start := s.reg sp - listBytes regs.length
  answer ((storeMany regs start s).map fun s' => s'.setReg sp start)

/-- The program counter popped by POP with the P bit, from address `a`, through the branch primitive
(R301). -/
def popPc (pcBit : Bool) (a : Word) (s : State) : Except Fault State :=
  if pcBit then (memRead a .word s).map fun x => branch x.1 x.2 else .ok s

/-- POP: the listed registers from `x[13]` up, then the program counter with the P bit, then the stack
pointer (R301). -/
def execPop (rlist : BitVec 8) (pcBit : Bool) (s : State) : Result :=
  let regs := listedRegs rlist
  let count := regs.length + pcBit.toNat
  answer <| (loadMany regs (s.reg sp) s).bind fun s1 =>
    (popPc pcBit (s.reg sp + listBytes regs.length) s1).map fun s2 =>
      s2.setReg sp (s2.reg sp + listBytes count)

/-- STMIA: the base is written back always, after the stores, so a base in the list is stored as it
was (R302, D15). -/
def execStmia (rn : Reg) (rlist : BitVec 8) (s : State) : Result :=
  let regs := listedRegs rlist
  answer ((storeMany regs (s.reg rn) s).map fun s' =>
    s'.setReg rn (s'.reg rn + listBytes regs.length))

/-- LDMIA: addresses from the original base; the base is written back exactly when it is not in the
list (R303, D15). -/
def execLdmia (rn : Reg) (rlist : BitVec 8) (s : State) : Result :=
  let regs := listedRegs rlist
  answer ((loadMany regs (s.reg rn) s).map fun s' =>
    if rn ∈ regs then s' else s'.setReg rn (s.reg rn + listBytes regs.length))

end Sys2Proof.Machine
end

