-- ==== Sys2Proof/Machine/ShiftAddImm.lean ====
section
/-! DEFINITION. Shift by immediate, add/subtract, move/compare/add/subtract immediate: formats F1, F2, F3
(spec 42_shift_add_sub_mov_imm.md). -/

namespace Sys2Proof.Machine

/-- LSL (immediate): amount 0 keeps C (R190, R163). -/
def execLslImm (rd rm : Reg) (imm5 : BitVec 5) (s : State) : Result :=
  writeShift rd (shiftLeft (s.reg rm) imm5.toNat s.flags.c) s

/-- LSR (immediate): the field 0 shifts by 32 (R191, R163). -/
def execLsrImm (rd rm : Reg) (imm5 : BitVec 5) (s : State) : Result :=
  writeShift rd (shiftRight (s.reg rm) (rightAmount imm5) s.flags.c) s

/-- ASR (immediate): the field 0 shifts by 32 (R192, R163). -/
def execAsrImm (rd rm : Reg) (imm5 : BitVec 5) (s : State) : Result :=
  writeShift rd (shiftRightArith (s.reg rm) (rightAmount imm5) s.flags.c) s

/-- ADD (register) (R193). -/
def execAddReg (rd rn rm : Reg) (s : State) : Result :=
  writeSum rd (addWithCarry (s.reg rn) (s.reg rm) false) s

/-- SUB (register) (R194). -/
def execSubReg (rd rn rm : Reg) (s : State) : Result :=
  writeSum rd (subtract (s.reg rn) (s.reg rm)) s

/-- ADD (3-bit immediate) (R195). -/
def execAddImm3 (rd rn : Reg) (imm3 : BitVec 3) (s : State) : Result :=
  writeSum rd (addWithCarry (s.reg rn) (immZext imm3) false) s

/-- SUB (3-bit immediate) (R196). -/
def execSubImm3 (rd rn : Reg) (imm3 : BitVec 3) (s : State) : Result :=
  writeSum rd (subtract (s.reg rn) (immZext imm3)) s

/-- MOV (immediate): N and Z from the value (R197). -/
def execMovImm8 (rd : Reg) (imm8 : BitVec 8) (s : State) : Result :=
  writeLogical rd (immZext imm8) s

/-- CMP (immediate): no register written (R198). -/
def execCmpImm8 (rn : Reg) (imm8 : BitVec 8) (s : State) : Result :=
  compareSum (subtract (s.reg rn) (immZext imm8)) s

/-- ADD (8-bit immediate) (R199). -/
def execAddImm8 (rdn : Reg) (imm8 : BitVec 8) (s : State) : Result :=
  writeSum rdn (addWithCarry (s.reg rdn) (immZext imm8) false) s

/-- SUB (8-bit immediate) (R200). -/
def execSubImm8 (rdn : Reg) (imm8 : BitVec 8) (s : State) : Result :=
  writeSum rdn (subtract (s.reg rdn) (immZext imm8)) s

end Sys2Proof.Machine
end

