-- ==== Sys2Proof/Machine/System.lean ====
section
/-! DEFINITION. Stubbed system instructions: formats F19 and F20 (spec 49_system_noop.md). -/

namespace Sys2Proof.Machine

/-- SVC: a stub, no operation; no exception is taken (R340, D13). -/
def execSvc (_imm8 : BitVec 8) (s : State) : Result :=
  .next s

/-- MRS: a stub; `x[d]` keeps its value (R341, R346). -/
def execMrs (_rd : Reg) (_sysm : BitVec 8) (s : State) : Result :=
  skipSecondHalf s

/-- MSR: a stub; nothing is written (R342, R346). -/
def execMsr (_rn : Reg) (_sysm : BitVec 8) (s : State) : Result :=
  skipSecondHalf s

/-- DSB: a stub; there is nothing to order (R343, R346, R82). -/
def execDsb (_option : BitVec 4) (s : State) : Result :=
  skipSecondHalf s

/-- DMB: a stub; there is nothing to order (R344, R346, R82). -/
def execDmb (_option : BitVec 4) (s : State) : Result :=
  skipSecondHalf s

/-- ISB: a stub; there is nothing to order (R345, R346, R82). -/
def execIsb (_option : BitVec 4) (s : State) : Result :=
  skipSecondHalf s

end Sys2Proof.Machine
end

