-- ==== Sys2Proof/Machine/Dispatch.lean ====
section
/-! DEFINITION. The dispatch: one arm per constructor of `Instr`, each one call of its meaning.
`exec i s` is `Execute(instr, A)` of spec 40_step_engine.md R140 stage (d): `s` is the state in which
`x[15]` has already been advanced to `A + 4` (R142). -/

namespace Sys2Proof.Machine

def exec (i : Instr) (s : State) : Host.Outcome State Fault Refusal :=
  match i with
  | .lslImm rd rm imm5 => Sys2Proof.Machine.execLslImm rd rm imm5 s
  | .lsrImm rd rm imm5 => Sys2Proof.Machine.execLsrImm rd rm imm5 s
  | .asrImm rd rm imm5 => Sys2Proof.Machine.execAsrImm rd rm imm5 s
  | .addReg rd rn rm => Sys2Proof.Machine.execAddReg rd rn rm s
  | .subReg rd rn rm => Sys2Proof.Machine.execSubReg rd rn rm s
  | .addImm3 rd rn imm3 => Sys2Proof.Machine.execAddImm3 rd rn imm3 s
  | .subImm3 rd rn imm3 => Sys2Proof.Machine.execSubImm3 rd rn imm3 s
  | .movImm8 rd imm8 => Sys2Proof.Machine.execMovImm8 rd imm8 s
  | .cmpImm8 rn imm8 => Sys2Proof.Machine.execCmpImm8 rn imm8 s
  | .addImm8 rdn imm8 => Sys2Proof.Machine.execAddImm8 rdn imm8 s
  | .subImm8 rdn imm8 => Sys2Proof.Machine.execSubImm8 rdn imm8 s
  | .andReg rdn rm => Sys2Proof.Machine.execAndReg rdn rm s
  | .eorReg rdn rm => Sys2Proof.Machine.execEorReg rdn rm s
  | .lslReg rdn rs => Sys2Proof.Machine.execLslReg rdn rs s
  | .lsrReg rdn rs => Sys2Proof.Machine.execLsrReg rdn rs s
  | .asrReg rdn rs => Sys2Proof.Machine.execAsrReg rdn rs s
  | .adcReg rdn rm => Sys2Proof.Machine.execAdcReg rdn rm s
  | .sbcReg rdn rm => Sys2Proof.Machine.execSbcReg rdn rm s
  | .rorReg rdn rs => Sys2Proof.Machine.execRorReg rdn rs s
  | .tstReg rn rm => Sys2Proof.Machine.execTstReg rn rm s
  | .negReg rd rm => Sys2Proof.Machine.execNegReg rd rm s
  | .cmpReg rn rm => Sys2Proof.Machine.execCmpReg rn rm s
  | .cmnReg rn rm => Sys2Proof.Machine.execCmnReg rn rm s
  | .orrReg rdn rm => Sys2Proof.Machine.execOrrReg rdn rm s
  | .mulReg rdn rm => Sys2Proof.Machine.execMulReg rdn rm s
  | .bicReg rdn rm => Sys2Proof.Machine.execBicReg rdn rm s
  | .mvnReg rd rm => Sys2Proof.Machine.execMvnReg rd rm s
  | .addHi rd rm => Sys2Proof.Machine.execAddHi rd rm s
  | .cmpHi rn rm => Sys2Proof.Machine.execCmpHi rn rm s
  | .movHi rd rm => Sys2Proof.Machine.execMovHi rd rm s
  | .bx rm => Sys2Proof.Machine.execBx rm s
  | .blxReg rm => Sys2Proof.Machine.execBlxReg rm s
  | .ldrLit rt imm8 => Sys2Proof.Machine.execLdrLit rt imm8 s
  | .strReg rt rn rm => Sys2Proof.Machine.execStrReg rt rn rm s
  | .strhReg rt rn rm => Sys2Proof.Machine.execStrhReg rt rn rm s
  | .strbReg rt rn rm => Sys2Proof.Machine.execStrbReg rt rn rm s
  | .ldrsbReg rt rn rm => Sys2Proof.Machine.execLdrsbReg rt rn rm s
  | .ldrReg rt rn rm => Sys2Proof.Machine.execLdrReg rt rn rm s
  | .ldrhReg rt rn rm => Sys2Proof.Machine.execLdrhReg rt rn rm s
  | .ldrbReg rt rn rm => Sys2Proof.Machine.execLdrbReg rt rn rm s
  | .ldrshReg rt rn rm => Sys2Proof.Machine.execLdrshReg rt rn rm s
  | .strImm5 rt rn imm5 => Sys2Proof.Machine.execStrImm5 rt rn imm5 s
  | .ldrImm5 rt rn imm5 => Sys2Proof.Machine.execLdrImm5 rt rn imm5 s
  | .strbImm5 rt rn imm5 => Sys2Proof.Machine.execStrbImm5 rt rn imm5 s
  | .ldrbImm5 rt rn imm5 => Sys2Proof.Machine.execLdrbImm5 rt rn imm5 s
  | .strhImm5 rt rn imm5 => Sys2Proof.Machine.execStrhImm5 rt rn imm5 s
  | .ldrhImm5 rt rn imm5 => Sys2Proof.Machine.execLdrhImm5 rt rn imm5 s
  | .strSp rt imm8 => Sys2Proof.Machine.execStrSp rt imm8 s
  | .ldrSp rt imm8 => Sys2Proof.Machine.execLdrSp rt imm8 s
  | .adr rd imm8 => Sys2Proof.Machine.execAdr rd imm8 s
  | .addRdSp rd imm8 => Sys2Proof.Machine.execAddRdSp rd imm8 s
  | .addSpImm7 imm7 => Sys2Proof.Machine.execAddSpImm7 imm7 s
  | .subSpImm7 imm7 => Sys2Proof.Machine.execSubSpImm7 imm7 s
  | .sxth rd rm => Sys2Proof.Machine.execSxth rd rm s
  | .sxtb rd rm => Sys2Proof.Machine.execSxtb rd rm s
  | .uxth rd rm => Sys2Proof.Machine.execUxth rd rm s
  | .uxtb rd rm => Sys2Proof.Machine.execUxtb rd rm s
  | .rev rd rm => Sys2Proof.Machine.execRev rd rm s
  | .rev16 rd rm => Sys2Proof.Machine.execRev16 rd rm s
  | .revsh rd rm => Sys2Proof.Machine.execRevsh rd rm s
  | .push rlist lrBit => Sys2Proof.Machine.execPush rlist lrBit s
  | .pop rlist pcBit => Sys2Proof.Machine.execPop rlist pcBit s
  | .stmia rn rlist => Sys2Proof.Machine.execStmia rn rlist s
  | .ldmia rn rlist => Sys2Proof.Machine.execLdmia rn rlist s
  | .beq imm8 => Sys2Proof.Machine.execBeq imm8 s
  | .bne imm8 => Sys2Proof.Machine.execBne imm8 s
  | .bcs imm8 => Sys2Proof.Machine.execBcs imm8 s
  | .bcc imm8 => Sys2Proof.Machine.execBcc imm8 s
  | .bmi imm8 => Sys2Proof.Machine.execBmi imm8 s
  | .bpl imm8 => Sys2Proof.Machine.execBpl imm8 s
  | .bvs imm8 => Sys2Proof.Machine.execBvs imm8 s
  | .bvc imm8 => Sys2Proof.Machine.execBvc imm8 s
  | .bhi imm8 => Sys2Proof.Machine.execBhi imm8 s
  | .bls imm8 => Sys2Proof.Machine.execBls imm8 s
  | .bge imm8 => Sys2Proof.Machine.execBge imm8 s
  | .blt imm8 => Sys2Proof.Machine.execBlt imm8 s
  | .bgt imm8 => Sys2Proof.Machine.execBgt imm8 s
  | .ble imm8 => Sys2Proof.Machine.execBle imm8 s
  | .svc imm8 => Sys2Proof.Machine.execSvc imm8 s
  | .b imm11 => Sys2Proof.Machine.execB imm11 s
  | .blPrefix imm11 => Sys2Proof.Machine.execBlPrefix imm11 s
  | .blSuffix imm11 => Sys2Proof.Machine.execBlSuffix imm11 s
  | .mrs rd sysm => Sys2Proof.Machine.execMrs rd sysm s
  | .msr rn sysm => Sys2Proof.Machine.execMsr rn sysm s
  | .dsb option => Sys2Proof.Machine.execDsb option s
  | .dmb option => Sys2Proof.Machine.execDmb option s
  | .isb option => Sys2Proof.Machine.execIsb option s

end Sys2Proof.Machine
end

