-- ==== Sys2Proof/Machine/Engine.lean ====
section
/-! DEFINITION. The step engine: the interrupt check, the exits, the decoded-cache lookup, the advance
of the program counter and the tick accounting (spec 40_step_engine.md). Step.lean only calls it. -/

namespace Sys2Proof.Machine

/-! ### The decoded-instruction cache -/

/-- A byte of the ROM image the cache was decoded from; beyond `ROM_SIZE` it reads 0
(20_memory.md R64, 30_encoding.md R130). -/
def imageByte (romSize : Nat) (image : Memory) (o : Nat) : Byte :=
  if o < romSize then image.get o else 0

/-- `icache[A]` (40_step_engine.md R145): an entry exists iff the address is even, below `ROM_SIZE`
and the decoder matches a row there. The decoder sees the halfword at `A` and the one after it
(R130). -/
def cacheLookup (romSize : Nat) (cache : ICache) (a : Word) : Option Instr :=
  match cache with
  | .empty => none
  | .decoded image =>
    if a.toNat % 2 = 0 ∧ a.toNat < romSize then
      (decodeBytes (bytesFrom (imageByte romSize image) a.toNat 4)).toOption
    else none

/-- The decoded instruction at `A`, if there is one (R84, R145): no memory is read. -/
def fetch (s : State) (a : Word) : Option Instr := cacheLookup s.cfg.romSize s.icache a

/-- `DecodeAll()`: the cache is rebuilt from the whole ROM (30_encoding.md R130, R132). -/
def decodeAll (s : State) : State := { s with icache := .decoded s.rom }

/-! ### The stages of a step -/

/-- The instruction address between steps: `A = x[15] - 2` (R140 stage (b)). -/
def instrAddr (s : State) : Word := s.reg pc - pipe

/-- Stage (a), the check: DMA completion before the tick, and none while a handler is active
(R140; 60_exceptions.md R367, R368). -/
def pendingSource (s : State) : Option Source :=
  if s.excActive then none
  else if s.dmaPending then some .dma
  else if s.tickPending then some .tick
  else none

/-- Stage (a), the entry: the serviced bit is cleared and the exception taken through the source's
latched vector (R140, R367, R373). -/
def serviceInterrupt (src : Source) (s : State) : Except Fault State :=
  match src with
  | .dma => (exceptionEntry s.vecDma { s with dmaPending := false }).map fun t => t.emit (.entered .dma)
  | .tick => (exceptionEntry s.vecTick { s with tickPending := false }).map fun t => t.emit (.entered .tick)

/-- Stage (c): exception exits until the instruction address is not the sentinel (R140, R148, R376).
More than `fuel` of them is a hang. -/
def exitLoop : Nat → State → Except Fault State
  | 0, s => if instrAddr s = sentinel then .error .exitHang else .ok s
  | fuel + 1, s =>
    if instrAddr s = sentinel then (exceptionExit s).bind fun t => exitLoop fuel (t.emit .exited)
    else .ok s

/-- Stage (d), the advance: `x[15]` becomes `A + 4` before the instruction executes (R140, R142). -/
def advance (s : State) : State := s.setReg pc (s.reg pc + pipe)

/-- Stage (e): one tick; reaching the threshold zeroes the counter and sets the pending bit (R140,
R147; 60_exceptions.md R362). -/
def countTick (s : State) : State :=
  if s.cfg.tickThreshold ≤ s.tickCount + 1 then { s with tickCount := 0, tickPending := true }
  else { s with tickCount := s.tickCount + 1 }

/-- The end of a step that reached stage (d): the tick and the step's tag (R146, R147). -/
def retire (tag : Event) (s : State) : State := (countTick s).emit tag

/-- Retire what an instruction answered. -/
def retireResult (i : Instr) : Result → Result
  | .next s => .next (retire (.executed i) s)
  | .fault f => .fault f
  | .refused r => .refused r

/-- Stages (d) and (e): execute the decoded instruction, or do nothing where there is none (R140,
R145). -/
def executeAt (s : State) : Result :=
  match fetch s (instrAddr s) with
  | some i => retireResult i (exec i (advance s))
  | none => .next (retire (.unrecognised (instrAddr s)) (advance s))

/-- `step()` (R140, R141). -/
def engineStep (s : State) : Result :=
  match pendingSource s with
  | some src => answer (serviceInterrupt src s)
  | none =>
    match exitLoop exitFuel s with
    | .ok t => executeAt t
    | .error f => .fault f

/-! ### Placing an instruction -/

/-- Where an instruction can be placed so that the next step fetches it: the instruction address
itself if four bytes of ROM lie there, else address 0. -/
def placeAddr (s : State) : Word :=
  if (instrAddr s).toNat % 2 = 0 ∧ (instrAddr s).toNat + 4 ≤ s.cfg.romSize then instrAddr s else 0

/-- The instruction of the low `nbits` bits of `w` stands alone in ROM where the next step fetches,
and the cache is decoded from it: what a `load_flash` of a program would leave (log entry 4). Pending
interrupts that would be taken first are cleared. -/
def placeWord (s : State) (nbits w : Nat) : State :=
  let rom := s.rom.setBytes (placeAddr s).toNat (natBytes 4 (w % 2 ^ nbits))
  { s.setReg pc (placeAddr s + pipe) with
    rom := rom
    icache := .decoded rom
    dmaPending := s.dmaPending && s.excActive
    tickPending := s.tickPending && s.excActive }

end Sys2Proof.Machine
end

