-- ==== Sys2Proof/Machine/Step.lean ====
section
/-! DEFINITION. The step, and how the host places an instruction for the next step to run. -/

namespace Sys2Proof.Machine

/-- One `step()` command (spec 40_step_engine.md R140). -/
def step (s : State) : Host.Outcome State Fault Refusal := engineStep s

/-- The state `s` with an instruction placed where the next step fetches it (log entry 4). -/
def State.withFetchWord (s : State) (nbits w : Nat) : State := placeWord s nbits w

end Sys2Proof.Machine
end

