-- ==== Sys2Proof/Machine/Commands.lean ====
section
/-! DEFINITION. The host's commands (spec 00_scope.md R5): construction, `load_flash`, `reset`,
registration of peripheral handlers, `signal_dma_interrupt`, and the accessors. Each is atomic and
comes between steps (70_reset_and_hazards.md R431). -/

namespace Sys2Proof.Machine

/-- `x[0]` to `x[12]` cleared (R421, D26). -/
def clearLowRegs (s : State) : State :=
  ([0, 1, 2, 3, 4, 5, 6, 7, 8, 9, 10, 11, 12] : List Reg).foldl (fun t r => t.setReg r 0) s

/-- The cells that `reset` clears after it has read the vector table (R421). -/
def clearLatches (s : State) : State :=
  { s with
    tickCount := 0
    tickPending := false
    dmaPending := false
    excActive := false
    dmaCurDesc := 0
    dmaChid := 0
    dmaBase := 0 }

/-- `reset(offset)` (R421, R44). The four words are read with `MemRead`, so the table may stand
anywhere; ROM, RAM, the cache and the registry keep their contents. -/
def hostReset (offset : Word) (s : State) : Except Fault State :=
  (memRead (offset + vecSpOff) .word (clearLowRegs s)).bind fun top =>
  (memRead (offset + vecResetOff) .word ((top.2.setReg sp top.1).setReg lr resetLr)).bind fun entry =>
  (memRead (offset + vecTickOff) .word
    ((branch entry.1 entry.2).setFlags ⟨false, false, false, false⟩)).bind fun tick =>
  (memRead (offset + vecDmaOff) .word { tick.2 with vecTick := tick.1 }).map fun dma =>
  clearLatches { dma.2 with vecDma := dma.1 }

/-- Copy image bytes into ROM from offset `o` on; bytes at or beyond `ROM_SIZE` are dropped (R420). -/
def copyImage (romSize : Nat) (m : Memory) (o : Nat) : List Byte → Memory
  | [] => m
  | b :: bs => copyImage romSize (if o < romSize then m.set o b else m) (o + 1) bs

/-- `load_flash(bytes, offset)` (R420): both arrays refilled with the fill value, the image copied,
then `reset(offset)`, then the cache decoded anew. -/
def loadFlash (image : List Byte) (offset : Word) (s : State) : Except Fault State :=
  (hostReset offset { s with rom := copyImage s.cfg.romSize [] offset.toNat image, ram := [] }).map decodeAll

/-- The block as constructed with a configuration (10_state.md R45, R422; the four registry entries of
60_exceptions.md R390), before the `reset(0)` that ends construction. -/
def bareBlock (cfg : Config) : State :=
  { State.reset with
    cfg := cfg
    readHandlers := insertKey cfg.dmaChStatusAddr.toNat .dmaStatus []
    writeHandlers :=
      insertKey cfg.dmaTriggerAddr.toNat .dmaTrigger
        (insertKey cfg.dmaBaseAddr.toNat .dmaBase (insertKey cfg.dmaChidAddr.toNat .dmaChid [])) }

/-- Construction with a configuration: `reset(0)` on memory of fill bytes (R45, R422). -/
def construct (cfg : Config) : Except Fault State := hostReset 0 (bareBlock cfg)

/-- `register_peripheral_read_handler(addr, fn)`: the last registration for an address wins
(20_memory.md R70). -/
def registerRead (addr : Word) (s : State) : State :=
  { s with readHandlers := insertKey addr.toNat .env s.readHandlers }

/-- `register_peripheral_write_handler(addr, fn)` (R70). -/
def registerWrite (addr : Word) (s : State) : State :=
  { s with writeHandlers := insertKey addr.toNat .env s.writeHandlers }

/-- The host's commands (00_scope.md R5). The accessors that only read are `State.reg`, the field
`flags`, and the value `memRead` answers. -/
inductive Command
  | loadFlash (image : List Byte) (offset : Word)
  | reset (offset : Word)
  | step
  | registerRead (addr : Word)
  | registerWrite (addr : Word)
  | signalDma
  | setReg (r : Reg) (v : Word)
  | setFlag (f : FlagName) (b : Bool)
  | memRead (a : Word) (w : Width)
  | memWrite (a : Word) (w : Width) (v : Word)
deriving DecidableEq, Repr

/-- What a command does to the block (R5, R26, R31, R366). -/
def perform (c : Command) (s : State) : Result :=
  match c with
  | .loadFlash image offset => answer (loadFlash image offset s)
  | .reset offset => answer (hostReset offset s)
  | .step => engineStep s
  | .registerRead addr => .next (registerRead addr s)
  | .registerWrite addr => .next (registerWrite addr s)
  | .signalDma => .next (signalDma s)
  | .setReg r v => .next (s.setReg r v)
  | .setFlag f b => .next (s.setFlags (writeFlag s.flags f b))
  | .memRead a w => answer ((memRead a w s).map Prod.snd)
  | .memWrite a w v => answer (memWrite a w v s)

end Sys2Proof.Machine
end

