-- ==== Sys2Proof/Safety.lean ====
section
/-! DEFINITION. What the claims mean by a legal configuration, a well-formed state and a step that
completes. -/

namespace Sys2Proof.Machine

/-- The constraints of spec 00_scope.md R8 on the configuration, and rising addresses in the table of
status stubs. -/
def configOk (c : Config) : Prop :=
  c.romSize % 2 = 0 ∧ 0 < c.romSize ∧ c.romSize ≤ ramBase ∧
  0 < c.ramSize ∧ c.ramSize ≤ mmioBase - ramBase ∧
  1 ≤ c.tickThreshold ∧ risingKeys c.statusStubs ∧
  [c.dmaChidAddr, c.dmaBaseAddr, c.dmaTriggerAddr, c.dmaChStatusAddr].Nodup ∧
  ∀ a ∈ [c.dmaChidAddr, c.dmaBaseAddr, c.dmaTriggerAddr, c.dmaChStatusAddr],
    mmioBase ≤ a.toNat ∧ a.toNat < mmioLimit

/-- The invariant of the state: a legal configuration; both backing arrays in canonical form and
inside their bounds (10_state.md R38); the tick counter below the threshold (R34); the handler maps in
canonical form. -/
structure StateOk (s : State) : Prop where
  config : configOk s.cfg
  romForm : Memory.wf s.rom
  romBound : ∀ c ∈ s.rom, c.1 < s.cfg.romSize
  ramForm : Memory.wf s.ram
  ramBound : ∀ c ∈ s.ram, ramBase ≤ c.1 ∧ c.1 < ramBase + s.cfg.ramSize
  tickBound : s.tickCount < s.cfg.tickThreshold
  readForm : risingKeys s.readHandlers
  writeForm : risingKeys s.writeHandlers

/-- The step (or instruction) ends, and the state after it is `t`. -/
def completesWith (r : Result) (t : State) : Prop := r = .next t

/-- The step (or instruction) ends. -/
def completes (r : Result) : Prop := ∃ t, completesWith r t

/-- The read of one byte at any address outside MMIO, with no effect: what the claims about memory
contents are stated with (20_memory.md R62). In MMIO, which has no storage, it is 0. -/
def peek (s : State) (a : Word) : Byte := (plainRead s a .byte).setWidth 8

end Sys2Proof.Machine
end

