-- ==== Sys2Proof/Certificates/Slice0/Obligations.lean ====
section
/-! DEFINITION. The statements for the provers. First the words they are written in
(`Sys2Proof.Claims`): the pseudocode of the spec's rules once more, in plain arithmetic, without the
operations of the machine. Then the statements, file by file of the spec. -/

namespace Sys2Proof.Claims

open Sys2Proof Machine

/-! ### Registers, flags, encodings -/

/-- The register a 3-bit field names (30_encoding.md R102). -/
def low (f : BitVec 3) : Reg := ⟨f.toNat, by have := f.isLt; omega⟩

/-- The register a 4-bit field names (R102). -/
def high (f : BitVec 4) : Reg := ⟨f.toNat, f.isLt⟩

/-- `x[r]` (00_scope.md R11). -/
def x (s : State) (r : Reg) : Word := s.regs[r.val]

/-- `x[r] <- v`, and nothing else (R11). -/
def put (s : State) (r : Reg) (v : Word) : State := { s with regs := s.regs.set r.val v }

/-- `pc <- target`, and nothing else: `x[15] <- (target AND 0xFFFF_FFFE) + 2` (40_step_engine.md
R143). -/
def jump (s : State) (target : Word) : State := put s 15 ((target &&& 0xFFFFFFFE#32) + 2#32)

/-- A diagnostic or tag, and nothing else. -/
def note (s : State) (e : Event) : State := { s with trace := e :: s.trace }

/-- The halfword decodes to the instruction, whatever follows it. -/
def decodesTo (hw : Half) (i : Instr) : Prop := ∀ next, decode hw next = .ok i

/-- The instruction completes in `s`, and the state after it is `t`. -/
def leads (i : Instr) (s t : State) : Prop := exec i s = .next t

/-! ### The adder, the flags and the shifts -/

/-- `AddWithCarry(a, b, cin)` (41_alu_flags.md R160): result, carry, overflow. -/
def adder (a b : Word) (cin : Bool) : Word × Bool × Bool :=
  let usum := a.toNat + b.toNat + (if cin then 1 else 0)
  let result := BitVec.ofNat 32 (usum % 2 ^ 32)
  (result, decide (usum > 0xFFFFFFFF),
    a.getLsbD 31 == b.getLsbD 31 && result.getLsbD 31 != a.getLsbD 31)

/-- `SetNZCV` from the adder's outputs, and nothing else (R162). -/
def flagSum (s : State) (y : Word × Bool × Bool) : State :=
  { s with flags := ⟨y.1.getLsbD 31, decide (y.1.toNat = 0), y.2.1, y.2.2⟩ }

/-- `x[d] <- r; SetNZCV(r, c, v)`, and nothing else (R162). -/
def putSum (s : State) (d : Reg) (y : Word × Bool × Bool) : State := flagSum (put s d y.1) y

/-- `SetNZ(r)`, and nothing else: C and V kept (R162). -/
def flagNZ (s : State) (r : Word) : State :=
  { s with flags := ⟨r.getLsbD 31, decide (r.toNat = 0), s.flags.c, s.flags.v⟩ }

/-- `x[d] <- r; SetNZ(r)`, and nothing else. -/
def putNZ (s : State) (d : Reg) (r : Word) : State := flagNZ (put s d r) r

/-- `x[d] <- r; SetNZ(r); C <- carry`, and nothing else: V kept (R163). -/
def putNZC (s : State) (d : Reg) (y : Word × Bool) : State :=
  { put s d y.1 with flags := ⟨y.1.getLsbD 31, decide (y.1.toNat = 0), y.2, s.flags.v⟩ }

/-- LSL by `n` places (R163, R164). -/
def lslBy (v : Word) (n : Nat) (cold : Bool) : Word × Bool :=
  if n = 0 then (v, cold)
  else if n ≤ 31 then (BitVec.ofNat 32 (v.toNat * 2 ^ n), v.getLsbD (32 - n))
  else if n = 32 then (0, v.getLsbD 0)
  else (0, false)

/-- LSR by `n` places (R163, R164). -/
def lsrBy (v : Word) (n : Nat) (cold : Bool) : Word × Bool :=
  if n = 0 then (v, cold)
  else if n ≤ 31 then (BitVec.ofNat 32 (v.toNat / 2 ^ n), v.getLsbD (n - 1))
  else if n = 32 then (0, v.getLsbD 31)
  else (0, false)

/-- ASR by `n` places: the signed value divided, rounding down (R163, R164). -/
def asrBy (v : Word) (n : Nat) (cold : Bool) : Word × Bool :=
  if n = 0 then (v, cold)
  else if n ≤ 31 then (BitVec.ofInt 32 (v.toInt / 2 ^ n), v.getLsbD (n - 1))
  else (if v.getLsbD 31 then 0xFFFFFFFF else 0, v.getLsbD 31)

/-- The amount of an immediate right shift: 0 means 32 (R163). -/
def amount (imm5 : BitVec 5) : Nat := if imm5.toNat = 0 then 32 else imm5.toNat

/-! ### Memory -/

/-- `RomByte(o)` (20_memory.md R62). -/
def romAt (s : State) (o : Nat) : Byte := if o < s.cfg.romSize then s.rom.get o else 0

/-- `RamByte(o)` (R62). -/
def ramAt (s : State) (o : Nat) : Byte := if o < s.cfg.ramSize then s.ram.get (0x20000000 + o) else 0

/-- `sum over i in 0..n-1 of byteAt(o + i) << (8*i)` (R62). -/
def sumBytes (byteAt : Nat → Byte) (o n : Nat) : Word :=
  BitVec.ofNat 32 ((List.range n).map fun i => (byteAt (o + i)).toNat * 2 ^ (8 * i)).sum

/-- `v AND (2^(8n) - 1)` (R62, R63). -/
def keep (w : Width) (v : Word) : Word := BitVec.ofNat 32 (v.toNat % 2 ^ (8 * widthBytes w))

/-- An address of the MMIO region (R60). -/
abbrev inMmio (a : Word) : Prop := 0x40000000 ≤ a.toNat ∧ a.toNat < 0x60000000

/-- An address of the RAM region (R60). -/
abbrev inRam (a : Word) : Prop := 0x20000000 ≤ a.toNat ∧ a.toNat < 0x40000000

/-- What `MemRead` gives at an address outside MMIO (R62). -/
def plainAt (s : State) (a : Word) (w : Width) : Word :=
  if a.toNat < 0x20000000 then sumBytes (romAt s) a.toNat (widthBytes w)
  else if a.toNat < 0x40000000 then sumBytes (ramAt s) (a.toNat - 0x20000000) (widthBytes w)
  else 0

/-- RAM after `for i in 0..n-1: if off + i < RAM_SIZE: ram[off + i] <- byte i of v` (R63). -/
def ramStored (s : State) (off n : Nat) (v : Word) : Memory :=
  (List.range n).foldl
    (fun m i => if off + i < s.cfg.ramSize then m.set (0x20000000 + off + i) (v.extractLsb' (8 * i) 8)
      else m) s.ram

/-- What a map holds at an address. -/
def heldAt {α : Type} (l : List (Nat × α)) (a : Word) : Option α :=
  (l.find? fun c => c.1 == a.toNat).map Prod.snd

/-- `MemRead` where no handler of the environment answers: the value and the state after (R62, R71,
R395). -/
def read0 (s : State) (a : Word) (w : Width) : Option (Word × State) :=
  if 0x40000000 ≤ a.toNat ∧ a.toNat < 0x60000000 then
    match heldAt s.cfg.statusStubs a, heldAt s.readHandlers a with
    | some v, _ => some (keep w v, s)
    | none, some .dmaStatus => some (keep w s.cfg.dmaChStatusValue, s)
    | none, some .env => none
    | none, none => some (0, note s (.unmappedRead a))
  else some (plainAt s a w, s)

/-- `MemWrite` where no handler of the environment answers and no transfer is triggered: the state
after (R63, R65, R67, R72, 60_exceptions.md R391). -/
def write0 (s : State) (a : Word) (w : Width) (v : Word) : Option State :=
  if a.toNat < 0x20000000 then some (note s (.romWrite a))
  else if a.toNat < 0x40000000 then
    some { s with ram := ramStored s (a.toNat - 0x20000000) (widthBytes w) v }
  else if a.toNat < 0x60000000 then
    match heldAt s.writeHandlers a with
    | some .dmaChid => some { s with dmaChid := keep w v }
    | some .dmaBase => some { s with dmaBase := keep w v }
    | some .dmaTrigger => none
    | some .env => none
    | none => some (note s (.unmappedWrite a))
  else some s

/-- One call of a handler into the block, where its own memory accesses reach no further handler and
trigger no transfer (20_memory.md R74). -/
def call0 (s : State) : EnvCall → Option State
  | .read a w => (read0 s a w).map Prod.snd
  | .write a w v => write0 s a w v
  | .signalDma => some { s with dmaPending := true }
  | .setReg r v => some (put s r v)
  | .setFlag .n b => some { s with flags := { s.flags with n := b } }
  | .setFlag .z b => some { s with flags := { s.flags with z := b } }
  | .setFlag .c b => some { s with flags := { s.flags with c := b } }
  | .setFlag .v b => some { s with flags := { s.flags with v := b } }

/-- A handler of the environment runs: its calls in order, then its answer (R74). Beyond the entries of
`env` it makes no call and answers a free value (log entry 6). -/
def handled (s : State) : Option (Word × State) :=
  match s.env with
  | r :: rest => (r.calls.foldlM call0 { s with env := rest }).map fun t => (r.answer, t)
  | [] => some (Config.envAnswer s.envCount, { s with envCount := s.envCount + 1 })

/-- The descriptor a trigger uses (60_exceptions.md R393). -/
def descriptor (s : State) : Word :=
  if s.dmaCurDesc ≠ 0 then s.dmaCurDesc
  else BitVec.ofNat 32 (s.dmaBase.toNat + s.dmaChid.toNat * s.cfg.dmaDescStride.toNat)

/-- One beat of a transfer: byte `i` of the source goes to byte `i` of the destination (R394). -/
def beat (src dst : Word) (s : State) (i : Nat) : Option State :=
  (read0 s (src + BitVec.ofNat 32 i) .byte).bind fun r => write0 r.2 (dst + BitVec.ofNat 32 i) .byte r.1

/-- `DmaTransfer()` where its accesses reach no handler of the environment and no trigger (R394). -/
def transferred (s : State) : Option State :=
  (read0 s (descriptor s + s.cfg.dmaCntOff) s.cfg.dmaCntWidth).bind fun count =>
  (read0 count.2 (descriptor s + s.cfg.dmaSrcOff) .word).bind fun src =>
  (read0 src.2 (descriptor s + s.cfg.dmaDstOff) .word).bind fun dst =>
  (read0 dst.2 (descriptor s + s.cfg.dmaNextOff) .word).bind fun next =>
  ((List.range count.1.toNat).foldlM (beat src.1 dst.1) next.2).map fun t =>
    { t with dmaCurDesc := next.1, dmaPending := true }

/-- `MemRead(a, n)`: the value and the state after (20_memory.md R62, R71, R73). It is `none` only
where a handler of the environment in turn reaches a handler or a trigger. -/
def readOf (s : State) (a : Word) (w : Width) : Option (Word × State) :=
  if 0x40000000 ≤ a.toNat ∧ a.toNat < 0x60000000 ∧ heldAt s.cfg.statusStubs a = none ∧
      heldAt s.readHandlers a = some .env then
    (handled (note s (.handlerRead a))).map fun r => (keep w r.1, r.2)
  else read0 s a w

/-- `MemWrite(a, n, v)`: the state after (R63, R72, R73; 60_exceptions.md R391, R392). It is `none` only
where a handler of the environment or a transfer in turn reaches a handler or a trigger. -/
def writeOf (s : State) (a : Word) (w : Width) (v : Word) : Option State :=
  if 0x40000000 ≤ a.toNat ∧ a.toNat < 0x60000000 ∧ heldAt s.writeHandlers a = some .env then
    (handled (note s (.handlerWrite a (keep w v)))).map Prod.snd
  else if 0x40000000 ≤ a.toNat ∧ a.toNat < 0x60000000 ∧
      heldAt s.writeHandlers a = some .dmaTrigger then transferred s
  else write0 s a w v

/-- Store registers at consecutive word addresses, in list order (47_push_pop_multiple.md R305). -/
def writeAll : List Reg → Word → State → Option State
  | [], _, s => some s
  | r :: rs, a, s => (writeOf s a .word (x s r)).bind (writeAll rs (a + 4))

/-- Load registers from consecutive word addresses, in list order (R305). -/
def readAll : List Reg → Word → State → Option State
  | [], _, s => some s
  | r :: rs, a, s => (readOf s a .word).bind fun y => readAll rs (a + 4) (put y.2 r y.1)

/-- Byte `k` of words laid out one after another, each least significant byte first. -/
def byteOfWords (ws : List Word) (k : Nat) : Byte := ((ws[k / 4]?).getD 0).extractLsb' (8 * (k % 4)) 8

/-- The address lies in the `n` bytes from `base` on. -/
abbrev within (base : Word) (n : Nat) (a : Word) : Prop :=
  base.toNat ≤ a.toNat ∧ a.toNat < base.toNat + n

/-- The `n` bytes from `base` on lie in RAM, inside the backing array. -/
abbrev ramHolds (s : State) (base : Word) (n : Nat) : Prop :=
  0x20000000 ≤ base.toNat ∧ base.toNat + n ≤ 0x20000000 + s.cfg.ramSize ∧
    base.toNat + n ≤ 0x40000000

/-! ### What a load and a store do -/

/-- The instruction is a load of `w` from `ea` into `x[t]`, `extend` applied to the value: outside MMIO
it completes and changes nothing but `x[t]`; anywhere, it completes wherever `MemRead` does, with what
`MemRead` gives and leaves. -/
def loads (i : Instr) (s : State) (t : Reg) (ea : Word) (w : Width) (extend : Word → Word) : Prop :=
  (¬ inMmio ea → leads i s (put s t (extend (plainAt s ea w)))) ∧
  ∀ v s', memRead ea w s = .ok (v, s') → leads i s (put s' t (extend v))

/-- The output after a store at `ea` outside MMIO: a store to ROM is reported (20_memory.md R65). -/
def romTrace (s : State) (ea : Word) : List Event :=
  if ea.toNat < 0x20000000 then .romWrite ea :: s.trace else s.trace

/-- The instruction is a store of `v` in `w` at `ea`: it completes wherever `MemWrite` does, and leaves
what `MemWrite` leaves; outside MMIO it completes, the bytes of RAM inside the access become those of
`v`, every other byte reads as before, and nothing but RAM and the output changes. -/
def stores (i : Instr) (s : State) (ea : Word) (w : Width) (v : Word) : Prop :=
  (∀ s', memWrite ea w v s = .ok s' → leads i s s') ∧
  (¬ inMmio ea → Memory.wf s.ram → ∃ m,
    leads i s { s with ram := m, trace := romTrace s ea } ∧
    ∀ a, peek { s with ram := m } a =
      if inRam ea ∧ within ea (widthBytes w) a ∧ inRam a ∧ a.toNat < 0x20000000 + s.cfg.ramSize then
        v.extractLsb' (8 * (a.toNat - ea.toNat)) 8
      else peek s a)

/-- The sign-extension of the low byte. -/
def signByte (v : Word) : Word := BitVec.ofInt 32 (v.setWidth 8).toInt

/-- The sign-extension of the low halfword. -/
def signHalf (v : Word) : Word := BitVec.ofInt 32 (v.setWidth 16).toInt

/-! ### Entry, exit, the step -/

/-- `PsrImage()` (10_state.md R30). -/
def psrWord (f : Flags) : Word :=
  BitVec.ofNat 32 (f.n.toNat * 2 ^ 31 + f.z.toNat * 2 ^ 30 + f.c.toNat * 2 ^ 29 + f.v.toNat * 2 ^ 28)

/-- `Push(v)` (60_exceptions.md R370). -/
def pushed (v : Word) (s : State) : Option State :=
  writeOf (put s 13 (x s 13 - 4)) (x s 13 - 4) .word v

/-- `ExceptionEntry(vector)`, line by line (R370). -/
def entered (vector : Word) (s : State) : Option State :=
  (pushed (psrWord s.flags) s).bind fun s =>
  (pushed (x s 15) s).bind fun s =>
  (pushed (x s 14) s).bind fun s =>
  (pushed (x s 12) s).bind fun s =>
  (pushed (x s 3) s).bind fun s =>
  (pushed (x s 2) s).bind fun s =>
  (pushed (x s 1) s).bind fun s =>
  (pushed (x s 0) s).map fun s =>
    { put (jump s vector) 14 0xFFFFFFF8 with excActive := true }

/-- `x[r] <- Pop()` (R375). -/
def popped (r : Reg) (s : State) : Option State :=
  (readOf s (x s 13) .word).map fun y => put (put y.2 13 (x y.2 13 + 4)) r y.1

/-- `ExceptionExit()`, line by line (R375). -/
def exited (s : State) : Option State :=
  (popped 0 s).bind fun s =>
  (popped 1 s).bind fun s =>
  (popped 2 s).bind fun s =>
  (popped 3 s).bind fun s =>
  (popped 12 s).bind fun s =>
  (popped 14 s).bind fun s =>
  (popped 15 s).bind fun s =>
  (readOf (put s 15 (x s 15 &&& 0xFFFFFFFE#32)) (x s 13) .word).map fun y =>
    { put y.2 13 (x y.2 13 + 4) with
      flags := ⟨y.1.getLsbD 31, y.1.getLsbD 30, y.1.getLsbD 29, y.1.getLsbD 28⟩
      excActive := false }

/-- The instruction address between steps, `A = x[15] - 2` (40_step_engine.md R140). -/
def address (s : State) : Word := x s 15 - 2

/-- A halfword of the image a cache was decoded from; beyond `ROM_SIZE` it reads 0 (30_encoding.md
R130). -/
def halfAt (romSize : Nat) (image : Memory) (o : Nat) : Half :=
  BitVec.ofNat 16 ((if o < romSize then image.get o else (0 : Byte)).toNat +
    256 * (if o + 1 < romSize then image.get (o + 1) else (0 : Byte)).toNat)

/-- `icache[A]`: an entry exists iff `A` is even, below `ROM_SIZE`, and a row matches there
(30_encoding.md R130, 40_step_engine.md R145). -/
def cacheAt (s : State) (a : Word) : Option Instr :=
  match s.icache with
  | .empty => none
  | .decoded image =>
    if a.toNat % 2 = 0 ∧ a.toNat < s.cfg.romSize then
      (decode (halfAt s.cfg.romSize image a.toNat)
        (halfAt s.cfg.romSize image (a.toNat + 2))).toOption
    else none

/-- Stage (e) and the step's tag (R140, R147). -/
def ticked (tag : Event) (s : State) : State :=
  { s with
    tickCount := if s.tickCount + 1 ≥ s.cfg.tickThreshold then 0 else s.tickCount + 1
    tickPending := decide (s.tickCount + 1 ≥ s.cfg.tickThreshold) || s.tickPending
    trace := tag :: s.trace }

/-- What executing `i` answered, with stage (e) after it. -/
def finished (i : Instr) (r : Result) : Result :=
  match r with
  | .next t => .next (ticked (.executed i) t)
  | .fault f => .fault f
  | .refused e => .refused e

/-- Stages (d) and (e): the program counter advances by 2, then the entry of the cache is executed, or
nothing where there is none (R140, R145). -/
def runAt (s : State) : Result :=
  match cacheAt s (address s) with
  | some i => finished i (exec i (put s 15 (x s 15 + 2)))
  | none => .next (ticked (.unrecognised (address s)) (put s 15 (x s 15 + 2)))

/-- No interrupt is taken by the next step (60_exceptions.md R367, R368). -/
abbrev noEntry (s : State) : Prop := s.excActive = true ∨ (s.dmaPending = false ∧ s.tickPending = false)

/-- `n` exits, each at the sentinel, lead from `s` to `t` (40_step_engine.md R140 stage (c)). -/
inductive Exits : Nat → State → State → Prop
  | none (s : State) : Exits 0 s s
  | more {n : Nat} {s t u : State} : address s = 0xFFFFFFF8 → exited s = some t →
      Exits n (note t .exited) u → Exits (n + 1) s u

/-- The registers an instruction may write (10_state.md R23): the destination, and those the
instruction or its addressing updates as well. -/
def writes : Instr → List Reg
  | .lslImm rd _ _ | .lsrImm rd _ _ | .asrImm rd _ _ => [rd]
  | .addReg rd _ _ | .subReg rd _ _ | .addImm3 rd _ _ | .subImm3 rd _ _ => [rd]
  | .movImm8 rd _ | .addImm8 rd _ | .subImm8 rd _ => [rd]
  | .andReg rd _ | .eorReg rd _ | .lslReg rd _ | .lsrReg rd _ | .asrReg rd _ => [rd]
  | .adcReg rd _ | .sbcReg rd _ | .negReg rd _ | .orrReg rd _ | .mulReg rd _ => [rd]
  | .bicReg rd _ | .mvnReg rd _ | .addHi rd _ | .movHi rd _ => [rd]
  | .cmpImm8 _ _ | .tstReg _ _ | .cmpReg _ _ | .cmnReg _ _ | .cmpHi _ _ | .rorReg _ _ | .svc _ => []
  | .bx _ | .b _ | .mrs _ _ | .msr _ _ | .dsb _ | .dmb _ | .isb _ => [15]
  | .blxReg _ | .blSuffix _ => [14, 15]
  | .blPrefix _ => [14]
  | .ldrLit rt _ | .ldrSp rt _ | .ldrReg rt _ _ | .ldrhReg rt _ _ | .ldrbReg rt _ _ => [rt]
  | .ldrsbReg rt _ _ | .ldrshReg rt _ _ | .ldrImm5 rt _ _ | .ldrbImm5 rt _ _ | .ldrhImm5 rt _ _ => [rt]
  | .strReg _ _ _ | .strhReg _ _ _ | .strbReg _ _ _ | .strImm5 _ _ _ | .strbImm5 _ _ _ => []
  | .strhImm5 _ _ _ | .strSp _ _ => []
  | .adr rd _ | .addRdSp rd _ | .sxth rd _ | .sxtb rd _ | .uxth rd _ | .uxtb rd _ => [rd]
  | .rev rd _ | .rev16 rd _ | .revsh rd _ => [rd]
  | .addSpImm7 _ | .subSpImm7 _ | .push _ _ => [13]
  | .pop rlist p => 13 :: (if p then [15] else []) ++ listedRegs rlist
  | .stmia rn _ => [rn]
  | .ldmia rn rlist => rn :: listedRegs rlist
  | .beq _ | .bne _ | .bcs _ | .bcc _ | .bmi _ | .bpl _ | .bvs _ | .bvc _ => [15]
  | .bhi _ | .bls _ | .bge _ | .blt _ | .bgt _ | .ble _ => [15]

/-- Which flags an instruction may write, by the table of 10_state.md R28. -/
inductive FlagClass
  | all
  | nzc
  | nz
  | none
deriving DecidableEq, Repr

/-- The row of R28 an instruction stands in. The shifts stand in the row that writes C; that they
keep it for a zero amount is said by the statements about them. -/
def flagClass : Instr → FlagClass
  | .addReg _ _ _ | .subReg _ _ _ | .addImm3 _ _ _ | .subImm3 _ _ _ | .addImm8 _ _ | .subImm8 _ _ => .all
  | .cmpImm8 _ _ | .cmpReg _ _ | .cmpHi _ _ | .cmnReg _ _ | .adcReg _ _ | .sbcReg _ _ | .negReg _ _ => .all
  | .lslImm _ _ _ | .lsrImm _ _ _ | .asrImm _ _ _ | .lslReg _ _ | .lsrReg _ _ | .asrReg _ _ => .nzc
  | .movImm8 _ _ | .andReg _ _ | .eorReg _ _ | .orrReg _ _ | .bicReg _ _ | .mvnReg _ _ => .nz
  | .tstReg _ _ | .mulReg _ _ => .nz
  | .rorReg _ _ | .svc _ | .mrs _ _ | .msr _ _ | .dsb _ | .dmb _ | .isb _ => .none
  | .addHi _ _ | .movHi _ _ | .bx _ | .blxReg _ | .b _ | .blPrefix _ | .blSuffix _ => .none
  | .ldrLit _ _ | .ldrSp _ _ | .ldrReg _ _ _ | .ldrhReg _ _ _ | .ldrbReg _ _ _ => .none
  | .ldrsbReg _ _ _ | .ldrshReg _ _ _ | .ldrImm5 _ _ _ | .ldrbImm5 _ _ _ | .ldrhImm5 _ _ _ => .none
  | .strReg _ _ _ | .strhReg _ _ _ | .strbReg _ _ _ | .strImm5 _ _ _ | .strbImm5 _ _ _ => .none
  | .strhImm5 _ _ _ | .strSp _ _ => .none
  | .adr _ _ | .addRdSp _ _ | .addSpImm7 _ | .subSpImm7 _ | .sxth _ _ | .sxtb _ _ => .none
  | .uxth _ _ | .uxtb _ _ | .rev _ _ | .rev16 _ _ | .revsh _ _ => .none
  | .push _ _ | .pop _ _ | .stmia _ _ | .ldmia _ _ => .none
  | .beq _ | .bne _ | .bcs _ | .bcc _ | .bmi _ | .bpl _ | .bvs _ | .bvc _ => .none
  | .bhi _ | .bls _ | .bge _ | .blt _ | .bgt _ | .ble _ => .none

/-- The halfword `010000 pppp mmm ddd` decodes to `i` (30_encoding.md R106). -/
def f4 (op : BitVec 4) (m d : BitVec 3) (i : Instr) : Prop :=
  decodesTo (0b010000#6 ++ op ++ m ++ d) i

/-- A conditional branch: the halfword `1101 cccc iiiiiiii` decodes to `i`, and `i` goes to `A + 4` plus
twice the signed offset exactly when the predicate holds, changing nothing else (48_branch.md R310). -/
def branchesIf (cccc : BitVec 4) (imm8 : BitVec 8) (i : Instr) (s : State) (taken : Bool) : Prop :=
  decodesTo (0b1101#4 ++ cccc ++ imm8) i ∧
  leads i s (if taken then jump s (x s 15 + BitVec.ofInt 32 (imm8.toInt * 2)) else s)

/-- Two states that differ at most in their output. -/
def sameButOutput (s t : State) : Prop := t = { s with trace := t.trace }

end Sys2Proof.Claims

section

open Sys2Proof Sys2Proof.Machine Sys2Proof.Claims

/-! ## 41_alu_flags.md: the adder and the order of compared values -/

/-- The adder (41_alu_flags.md R160): the sum modulo 2^32; carry iff the unsigned sum exceeds
2^32 - 1, equivalently bit 32 of the sum; overflow iff the operands share a sign and the result has
the other; N is bit 31 of the result and Z says that it is 0. -/
def Obligations.AdderFollowsRule : Prop :=
  ∀ (a b : Word) (cin : Bool),
    (addWithCarry a b cin).result = (adder a b cin).1 ∧
    (addWithCarry a b cin).carry = (adder a b cin).2.1 ∧
    (addWithCarry a b cin).carry =
      (BitVec.ofNat 33 (a.toNat + b.toNat + cin.toNat)).getLsbD 32 ∧
    (addWithCarry a b cin).overflow = (adder a b cin).2.2 ∧
    setNZCV (addWithCarry a b cin) =
      ⟨(adder a b cin).1.getLsbD 31, decide ((adder a b cin).1.toNat = 0), (adder a b cin).2.1,
        (adder a b cin).2.2⟩

/-- What the fourteen conditions mean after a compare of `a` with `b` (41_alu_flags.md, section 3, the
derived rule on compares): equality, the unsigned and the signed orders, the sign of the difference
and signed overflow. -/
def Obligations.CompareDecidesOrder : Prop :=
  ∀ a b : Word,
    let f := setNZCV (subtract a b)
    (condHolds .eq f = true ↔ a = b) ∧ (condHolds .ne f = true ↔ a ≠ b) ∧
    (condHolds .cs f = true ↔ b.toNat ≤ a.toNat) ∧ (condHolds .cc f = true ↔ a.toNat < b.toNat) ∧
    (condHolds .hi f = true ↔ b.toNat < a.toNat) ∧ (condHolds .ls f = true ↔ a.toNat ≤ b.toNat) ∧
    (condHolds .ge f = true ↔ b.toInt ≤ a.toInt) ∧ (condHolds .lt f = true ↔ a.toInt < b.toInt) ∧
    (condHolds .gt f = true ↔ b.toInt < a.toInt) ∧ (condHolds .le f = true ↔ a.toInt ≤ b.toInt) ∧
    (condHolds .mi f = true ↔ (a - b).getLsbD 31 = true) ∧
    (condHolds .pl f = true ↔ (a - b).getLsbD 31 = false) ∧
    (condHolds .vs f = true ↔ ¬ (-2 ^ 31 ≤ a.toInt - b.toInt ∧ a.toInt - b.toInt ≤ 2 ^ 31 - 1)) ∧
    (condHolds .vc f = true ↔ (-2 ^ 31 ≤ a.toInt - b.toInt ∧ a.toInt - b.toInt ≤ 2 ^ 31 - 1))

/-- The PSR image (10_state.md R30, a decision of the spec, D17): N, Z, C, V in bits 31 to 28 and zeros
below; reading it back ignores bits 27 to 0. It rests on the spec's decision D17 (log entry 18). -/
def Obligations.PsrImageRoundTrip : Prop :=
  ∀ (f : Flags) (w : Word),
    psrImage f = psrWord f ∧ flagsOfPsr (psrImage f ||| (w &&& 0x0FFFFFFF#32)) = f ∧
    psrImage (flagsOfPsr w) = w &&& 0xF0000000#32

/-! ## 42_shift_add_sub_mov_imm.md -/

/-- F1: LSL, LSR, ASR by an immediate: decoding, result, flags, and nothing else changed. -/
def Obligations.ShiftImmediateResults : Prop :=
  ∀ (d m : BitVec 3) (imm5 : BitVec 5) (s : State),
    let v := x s (low m)
    (decodesTo (0b00000#5 ++ imm5 ++ m ++ d) (.lslImm (low d) (low m) imm5) ∧
      leads (.lslImm (low d) (low m) imm5) s
        (putNZC s (low d) (lslBy v imm5.toNat s.flags.c))) ∧
    (decodesTo (0b00001#5 ++ imm5 ++ m ++ d) (.lsrImm (low d) (low m) imm5) ∧
      leads (.lsrImm (low d) (low m) imm5) s
        (putNZC s (low d) (lsrBy v (amount imm5) s.flags.c))) ∧
    (decodesTo (0b00010#5 ++ imm5 ++ m ++ d) (.asrImm (low d) (low m) imm5) ∧
      leads (.asrImm (low d) (low m) imm5) s
        (putNZC s (low d) (asrBy v (amount imm5) s.flags.c)))

/-- F2: ADD and SUB of a register or of a 3-bit immediate. -/
def Obligations.AddSubtractThreeOperands : Prop :=
  ∀ (d n m : BitVec 3) (s : State),
    (decodesTo (0b0001100#7 ++ m ++ n ++ d) (.addReg (low d) (low n) (low m)) ∧
      leads (.addReg (low d) (low n) (low m)) s
        (putSum s (low d) (adder (x s (low n)) (x s (low m)) false))) ∧
    (decodesTo (0b0001101#7 ++ m ++ n ++ d) (.subReg (low d) (low n) (low m)) ∧
      leads (.subReg (low d) (low n) (low m)) s
        (putSum s (low d) (adder (x s (low n)) (~~~ x s (low m)) true))) ∧
    (decodesTo (0b0001110#7 ++ m ++ n ++ d) (.addImm3 (low d) (low n) m) ∧
      leads (.addImm3 (low d) (low n) m) s
        (putSum s (low d) (adder (x s (low n)) (BitVec.ofNat 32 m.toNat) false))) ∧
    (decodesTo (0b0001111#7 ++ m ++ n ++ d) (.subImm3 (low d) (low n) m) ∧
      leads (.subImm3 (low d) (low n) m) s
        (putSum s (low d) (adder (x s (low n)) (~~~ BitVec.ofNat 32 m.toNat) true)))

/-- F3: MOV, CMP, ADD and SUB with an 8-bit immediate. -/
def Obligations.MoveCompareAddSubtractImm8 : Prop :=
  ∀ (d : BitVec 3) (imm8 : BitVec 8) (s : State),
    let imm := BitVec.ofNat 32 imm8.toNat
    (decodesTo (0b00100#5 ++ d ++ imm8) (.movImm8 (low d) imm8) ∧
      leads (.movImm8 (low d) imm8) s (putNZ s (low d) imm)) ∧
    (decodesTo (0b00101#5 ++ d ++ imm8) (.cmpImm8 (low d) imm8) ∧
      leads (.cmpImm8 (low d) imm8) s (flagSum s (adder (x s (low d)) (~~~ imm) true))) ∧
    (decodesTo (0b00110#5 ++ d ++ imm8) (.addImm8 (low d) imm8) ∧
      leads (.addImm8 (low d) imm8) s (putSum s (low d) (adder (x s (low d)) imm false))) ∧
    (decodesTo (0b00111#5 ++ d ++ imm8) (.subImm8 (low d) imm8) ∧
      leads (.subImm8 (low d) imm8) s (putSum s (low d) (adder (x s (low d)) (~~~ imm) true)))

/-! ## 43_alu_register.md -/

/-- F4, logical operations, TST and MUL: N and Z from the result, C and V kept. -/
def Obligations.LogicalAndMultiplyResults : Prop :=
  ∀ (d m : BitVec 3) (s : State),
    let a := x s (low d)
    let b := x s (low m)
    (f4 0b0000 m d (.andReg (low d) (low m)) ∧
      leads (.andReg (low d) (low m)) s (putNZ s (low d) (a &&& b))) ∧
    (f4 0b0001 m d (.eorReg (low d) (low m)) ∧
      leads (.eorReg (low d) (low m)) s (putNZ s (low d) (a ^^^ b))) ∧
    (f4 0b1000 m d (.tstReg (low d) (low m)) ∧
      leads (.tstReg (low d) (low m)) s (flagNZ s (a &&& b))) ∧
    (f4 0b1100 m d (.orrReg (low d) (low m)) ∧
      leads (.orrReg (low d) (low m)) s (putNZ s (low d) (a ||| b))) ∧
    (f4 0b1101 m d (.mulReg (low d) (low m)) ∧
      leads (.mulReg (low d) (low m)) s
        (putNZ s (low d) (BitVec.ofNat 32 (a.toNat * b.toNat % 2 ^ 32)))) ∧
    (f4 0b1110 m d (.bicReg (low d) (low m)) ∧
      leads (.bicReg (low d) (low m)) s (putNZ s (low d) (a &&& ~~~ b))) ∧
    (f4 0b1111 m d (.mvnReg (low d) (low m)) ∧
      leads (.mvnReg (low d) (low m)) s (putNZ s (low d) (~~~ b)))

/-- F4, arithmetic: ADC, SBC, NEG, CMP, CMN; and the CMP of F5, on any two registers, both low included
(decision D12 of the spec, log entry 18). -/
def Obligations.ArithmeticRegisterResults : Prop :=
  (∀ (d m : BitVec 3) (s : State),
    let a := x s (low d)
    let b := x s (low m)
    (f4 0b0101 m d (.adcReg (low d) (low m)) ∧
      leads (.adcReg (low d) (low m)) s (putSum s (low d) (adder a b s.flags.c))) ∧
    (f4 0b0110 m d (.sbcReg (low d) (low m)) ∧
      leads (.sbcReg (low d) (low m)) s (putSum s (low d) (adder a (~~~ b) s.flags.c))) ∧
    (f4 0b1001 m d (.negReg (low d) (low m)) ∧
      leads (.negReg (low d) (low m)) s (putSum s (low d) (adder 0 (~~~ b) true))) ∧
    (f4 0b1010 m d (.cmpReg (low d) (low m)) ∧
      leads (.cmpReg (low d) (low m)) s (flagSum s (adder a (~~~ b) true))) ∧
    (f4 0b1011 m d (.cmnReg (low d) (low m)) ∧
      leads (.cmnReg (low d) (low m)) s (flagSum s (adder a b false)))) ∧
  ∀ (dHigh : BitVec 1) (dLow : BitVec 3) (m : BitVec 4) (s : State),
    let n := high (dHigh ++ dLow)
    decodesTo (0b01000101#8 ++ dHigh ++ m ++ dLow) (.cmpHi n (high m)) ∧
      leads (.cmpHi n (high m)) s (flagSum s (adder (x s n) (~~~ x s (high m)) true))

/-- F4, shifts by a register: the amount is the low byte of `Rs`, every amount 0 to 255. The cases from
32 on rest on a decision of the spec (D14). It rests on the spec's decision D14 (log entry 18). -/
def Obligations.ShiftRegisterResults : Prop :=
  ∀ (d m : BitVec 3) (s : State),
    let v := x s (low d)
    let n := (x s (low m)).toNat % 256
    (f4 0b0010 m d (.lslReg (low d) (low m)) ∧
      leads (.lslReg (low d) (low m)) s (putNZC s (low d) (lslBy v n s.flags.c))) ∧
    (f4 0b0011 m d (.lsrReg (low d) (low m)) ∧
      leads (.lsrReg (low d) (low m)) s (putNZC s (low d) (lsrBy v n s.flags.c))) ∧
    (f4 0b0100 m d (.asrReg (low d) (low m)) ∧
      leads (.asrReg (low d) (low m)) s (putNZC s (low d) (asrBy v n s.flags.c)))

/-! ## 44_hireg_bx.md -/

/-- F5, ADD and MOV: any two registers, no flag; a destination of 15 is a branch (decisions D11, D12 of
the spec). It rests on the spec's decisions D11, D12 and D16 and its resolution C9 (log entry 18). -/
def Obligations.HiRegisterAddAndMove : Prop :=
  ∀ (dHigh : BitVec 1) (dLow : BitVec 3) (m : BitVec 4) (s : State),
    let d := high (dHigh ++ dLow)
    let write := fun r => if d = 15 then jump s r else put s d r
    (decodesTo (0b01000100#8 ++ dHigh ++ m ++ dLow) (.addHi d (high m)) ∧
      leads (.addHi d (high m)) s
        (write (BitVec.ofNat 32 ((x s d).toNat + (x s (high m)).toNat)))) ∧
    (decodesTo (0b01000110#8 ++ dHigh ++ m ++ dLow) (.movHi d (high m)) ∧
      leads (.movHi d (high m)) s (write (x s (high m))))

/-- F5, BX and BLX: bits 2:0 ignored, bit 0 of the target discarded; BLX reads its target before it
writes the link `(A + 2) OR 1` (decisions D10, D12 of the spec). It rests on the spec's decisions D10 to
D12 (log entry 18). -/
def Obligations.BranchExchange : Prop :=
  ∀ (m : BitVec 4) (ignored : BitVec 3) (s : State),
    (decodesTo (0b010001110#9 ++ m ++ ignored) (.bx (high m)) ∧
      leads (.bx (high m)) s (jump s (x s (high m)))) ∧
    (decodesTo (0b010001111#9 ++ m ++ ignored) (.blxReg (high m)) ∧
      leads (.blxReg (high m)) s (jump (put s 14 ((x s 15 - 2) ||| 1)) (x s (high m))))

/-! ## 20_memory.md -/

/-- `MemRead` (20_memory.md R62, R71, R73; 60_exceptions.md R391, R395, R396): wherever the accesses of
handlers do not nest further, it gives the value and the state of the rule, for every address and width.
What a handler of the environment answers and does is the model's choice, log entry 6: the entries of
`env` in their order, beyond them no call and a free answer. It rests on the spec's decisions D1 to D6,
D30, D32 and D35 (log entries 6, 9, 17 and 18). -/
def Obligations.MemReadFollowsRule : Prop :=
  ∀ (s : State) (a : Word) (w : Width),
    (¬ inMmio a → memRead a w s = .ok (plainAt s a w, s)) ∧
    ∀ v t, readOf s a w = some (v, t) → memRead a w s = .ok (v, t)

/-- `MemWrite` (20_memory.md R63, R72, R73; 60_exceptions.md R391, R392, R394): wherever the accesses of
handlers and transfers do not nest further, it gives the state of the rule, for every address and width.
What a handler of the environment does is the model's choice, log entry 6: the entries of `env` in their
order, beyond them no call. It rests on the spec's decisions D1 to D6, D28 to D30, D32 and D35 (log
entries 6, 9, 17 and 18). -/
def Obligations.MemWriteFollowsRule : Prop :=
  ∀ (s t : State) (a v : Word) (w : Width), writeOf s a w v = some t → memWrite a w v s = .ok t

/-- A word written in RAM is read back, whole and in parts, little-endian, aligned or not (20_memory.md
R61 and R69, decisions D1 and D2 of the spec). It rests on the spec's decisions D1 and D2 (log entry
18). -/
def Obligations.RamReadsBackWhatWasWritten : Prop :=
  ∀ (s : State) (a v : Word), Memory.wf s.ram → ramHolds s a 4 →
    ∃ t, memWrite a .word v s = .ok t ∧
      memRead a .word t = .ok (v, t) ∧
      memRead a .half t = .ok ((v.extractLsb' 0 16).setWidth 32, t) ∧
      memRead (a + 2) .half t = .ok ((v.extractLsb' 16 16).setWidth 32, t) ∧
      memRead a .byte t = .ok ((v.extractLsb' 0 8).setWidth 32, t) ∧
      memRead (a + 1) .byte t = .ok ((v.extractLsb' 8 8).setWidth 32, t) ∧
      memRead (a + 2) .byte t = .ok ((v.extractLsb' 16 8).setWidth 32, t) ∧
      memRead (a + 3) .byte t = .ok ((v.extractLsb' 24 8).setWidth 32, t)

/-- The bound the model puts on nested accesses (log entry 7) only takes answers away: an answer under
one bound is the answer under every larger one. It rests on the spec's decision D25 (log entries 7 and
18). -/
def Obligations.NestingBoundOnlyAddsAnswers : Prop :=
  ∀ (n m : Nat) (acc : Access) (s t : State) (v : Word), n ≤ m →
    access n acc s = .ok (v, t) → access m acc s = .ok (v, t)

/-! ## 45_load_store.md -/

/-- Every load: decoding, address, width and extension, the destination, and nothing else changed. That
the address is used as computed, whatever its alignment, is the spec's decision D2 (R253, R267); that
bytes beyond the backing array read 0 its decision D3; that `x[13]` is the base as held its decision D16
(R264 to R266; log entry 18). It rests on the spec's decisions D1 to D4 and D16 (log entry 18). -/
def Obligations.LoadsFollowRules : Prop :=
  ∀ s : State,
    (∀ (t : BitVec 3) (imm8 : BitVec 8),
      (decodesTo (0b01001#5 ++ t ++ imm8) (.ldrLit (low t) imm8) ∧
        loads (.ldrLit (low t) imm8) s (low t)
          ((x s 15 &&& 0xFFFFFFFC#32) + 4 * BitVec.ofNat 32 imm8.toNat) .word id) ∧
      (decodesTo (0b10011#5 ++ t ++ imm8) (.ldrSp (low t) imm8) ∧
        loads (.ldrSp (low t) imm8) s (low t) (x s 13 + 4 * BitVec.ofNat 32 imm8.toNat) .word id)) ∧
    (∀ t n m : BitVec 3,
      let ea := x s (low n) + x s (low m)
      (decodesTo (0b0101011#7 ++ m ++ n ++ t) (.ldrsbReg (low t) (low n) (low m)) ∧
        loads (.ldrsbReg (low t) (low n) (low m)) s (low t) ea .byte signByte) ∧
      (decodesTo (0b0101100#7 ++ m ++ n ++ t) (.ldrReg (low t) (low n) (low m)) ∧
        loads (.ldrReg (low t) (low n) (low m)) s (low t) ea .word id) ∧
      (decodesTo (0b0101101#7 ++ m ++ n ++ t) (.ldrhReg (low t) (low n) (low m)) ∧
        loads (.ldrhReg (low t) (low n) (low m)) s (low t) ea .half id) ∧
      (decodesTo (0b0101110#7 ++ m ++ n ++ t) (.ldrbReg (low t) (low n) (low m)) ∧
        loads (.ldrbReg (low t) (low n) (low m)) s (low t) ea .byte id) ∧
      (decodesTo (0b0101111#7 ++ m ++ n ++ t) (.ldrshReg (low t) (low n) (low m)) ∧
        loads (.ldrshReg (low t) (low n) (low m)) s (low t) ea .half signHalf)) ∧
    (∀ (t n : BitVec 3) (imm5 : BitVec 5),
      let imm := BitVec.ofNat 32 imm5.toNat
      (decodesTo (0b01101#5 ++ imm5 ++ n ++ t) (.ldrImm5 (low t) (low n) imm5) ∧
        loads (.ldrImm5 (low t) (low n) imm5) s (low t) (x s (low n) + 4 * imm) .word id) ∧
      (decodesTo (0b01111#5 ++ imm5 ++ n ++ t) (.ldrbImm5 (low t) (low n) imm5) ∧
        loads (.ldrbImm5 (low t) (low n) imm5) s (low t) (x s (low n) + imm) .byte id) ∧
      (decodesTo (0b10001#5 ++ imm5 ++ n ++ t) (.ldrhImm5 (low t) (low n) imm5) ∧
        loads (.ldrhImm5 (low t) (low n) imm5) s (low t) (x s (low n) + 2 * imm) .half id))

/-- Every store: decoding, address, width and data; the address stored to is the machine's own
expression; the stored bytes, and nothing else changed. That the address is used as computed, whatever
its alignment, is the spec's decision D2 (R267); that bytes beyond the backing array are dropped its
decision D3; that `x[13]` is the base as held its decision D16 (log entry 18). It rests on the spec's
decisions D1 to D4, D16 and D32 (log entries 9 and 18). -/
def Obligations.StoresFollowRules : Prop :=
  ∀ s : State,
    (∀ t n m : BitVec 3,
      let ea := s.reg (low n) + s.reg (low m)
      (decodesTo (0b0101000#7 ++ m ++ n ++ t) (.strReg (low t) (low n) (low m)) ∧
        stores (.strReg (low t) (low n) (low m)) s ea .word (x s (low t))) ∧
      (decodesTo (0b0101001#7 ++ m ++ n ++ t) (.strhReg (low t) (low n) (low m)) ∧
        stores (.strhReg (low t) (low n) (low m)) s ea .half (x s (low t))) ∧
      (decodesTo (0b0101010#7 ++ m ++ n ++ t) (.strbReg (low t) (low n) (low m)) ∧
        stores (.strbReg (low t) (low n) (low m)) s ea .byte (x s (low t)))) ∧
    (∀ (t n : BitVec 3) (imm5 : BitVec 5),
      (decodesTo (0b01100#5 ++ imm5 ++ n ++ t) (.strImm5 (low t) (low n) imm5) ∧
        stores (.strImm5 (low t) (low n) imm5) s (s.reg (low n) + immTimes4 imm5) .word
          (x s (low t))) ∧
      (decodesTo (0b01110#5 ++ imm5 ++ n ++ t) (.strbImm5 (low t) (low n) imm5) ∧
        stores (.strbImm5 (low t) (low n) imm5) s (s.reg (low n) + immZext imm5) .byte
          (x s (low t))) ∧
      (decodesTo (0b10000#5 ++ imm5 ++ n ++ t) (.strhImm5 (low t) (low n) imm5) ∧
        stores (.strhImm5 (low t) (low n) imm5) s (s.reg (low n) + immTimes2 imm5) .half
          (x s (low t)))) ∧
    (∀ (t : BitVec 3) (imm8 : BitVec 8),
      decodesTo (0b10010#5 ++ t ++ imm8) (.strSp (low t) imm8) ∧
      stores (.strSp (low t) imm8) s (s.reg 13 + immTimes4 imm8) .word (x s (low t))) ∧
    (∀ imm5 : BitVec 5, immTimes4 imm5 = 4 * BitVec.ofNat 32 imm5.toNat ∧
      immTimes2 imm5 = 2 * BitVec.ofNat 32 imm5.toNat ∧ immZext imm5 = BitVec.ofNat 32 imm5.toNat) ∧
    ∀ imm8 : BitVec 8, immTimes4 imm8 = 4 * BitVec.ofNat 32 imm8.toNat

/-! ## 46_address_sp_extend_reverse.md -/

/-- F10 and F11: ADR, ADD Rd SP, ADD SP, SUB SP; no flag and nothing else changed. That `x[13]` is read
and written as held, never aligned, is the spec's decision D16 (log entry 18). -/
def Obligations.AddressAndStackAdjust : Prop :=
  (∀ (d : BitVec 3) (imm8 : BitVec 8) (s : State),
    let imm := 4 * BitVec.ofNat 32 imm8.toNat
    (decodesTo (0b10100#5 ++ d ++ imm8) (.adr (low d) imm8) ∧
      leads (.adr (low d) imm8) s (put s (low d) ((x s 15 &&& 0xFFFFFFFC#32) + imm))) ∧
    (decodesTo (0b10101#5 ++ d ++ imm8) (.addRdSp (low d) imm8) ∧
      leads (.addRdSp (low d) imm8) s (put s (low d) (x s 13 + imm)))) ∧
  ∀ (imm7 : BitVec 7) (s : State),
    let imm := 4 * BitVec.ofNat 32 imm7.toNat
    (decodesTo (0b101100000#9 ++ imm7) (.addSpImm7 imm7) ∧
      leads (.addSpImm7 imm7) s (put s 13 (x s 13 + imm))) ∧
    (decodesTo (0b101100001#9 ++ imm7) (.subSpImm7 imm7) ∧
      leads (.subSpImm7 imm7) s (put s 13 (x s 13 - imm)))

/-- F12: SXTH, SXTB, UXTH, UXTB. -/
def Obligations.SignAndZeroExtends : Prop :=
  ∀ (d m : BitVec 3) (s : State),
    let v := x s (low m)
    (decodesTo (0b1011001000#10 ++ m ++ d) (.sxth (low d) (low m)) ∧
      leads (.sxth (low d) (low m)) s (put s (low d) (signHalf v))) ∧
    (decodesTo (0b1011001001#10 ++ m ++ d) (.sxtb (low d) (low m)) ∧
      leads (.sxtb (low d) (low m)) s (put s (low d) (signByte v))) ∧
    (decodesTo (0b1011001010#10 ++ m ++ d) (.uxth (low d) (low m)) ∧
      leads (.uxth (low d) (low m)) s (put s (low d) (BitVec.ofNat 32 (v.toNat % 2 ^ 16)))) ∧
    (decodesTo (0b1011001011#10 ++ m ++ d) (.uxtb (low d) (low m)) ∧
      leads (.uxtb (low d) (low m)) s (put s (low d) (BitVec.ofNat 32 (v.toNat % 2 ^ 8))))

/-- F13: REV, REV16, REVSH, with `b3 b2 b1 b0` the bytes of the source. -/
def Obligations.ByteReverses : Prop :=
  ∀ (d m : BitVec 3) (b3 b2 b1 b0 : Byte) (s : State), x s (low m) = b3 ++ b2 ++ b1 ++ b0 →
    (decodesTo (0b1011101000#10 ++ m ++ d) (.rev (low d) (low m)) ∧
      leads (.rev (low d) (low m)) s (put s (low d) (b0 ++ b1 ++ b2 ++ b3))) ∧
    (decodesTo (0b1011101001#10 ++ m ++ d) (.rev16 (low d) (low m)) ∧
      leads (.rev16 (low d) (low m)) s (put s (low d) (b2 ++ b3 ++ b0 ++ b1))) ∧
    (decodesTo (0b1011101011#10 ++ m ++ d) (.revsh (low d) (low m)) ∧
      leads (.revsh (low d) (low m)) s (put s (low d) (BitVec.ofInt 32 (b0 ++ b1).toInt)))

/-! ## 47_push_pop_multiple.md -/

/-- PUSH: decoding; the stores in ascending order, then the stack pointer, wherever the accesses
complete (handlers among them are read from `env`, log entry 6); and on a stack inside RAM, every byte
of memory after it. It rests on the spec's decisions D1 to D6, D15, D16, D28 to D30, D32 and D35 (log
entries 6, 9 and 18). -/
def Obligations.PushFollowsRule : Prop :=
  ∀ (rlist : BitVec 8) (r : Bool) (s : State),
    let regs := listedRegs rlist ++ (if r then [14] else [])
    let start := x s 13 - BitVec.ofNat 32 (4 * regs.length)
    decodesTo (0b1011010#7 ++ BitVec.ofBool r ++ rlist) (.push rlist r) ∧
    (∀ t, writeAll regs start s = some t → leads (.push rlist r) s (put t 13 start)) ∧
    (Memory.wf s.ram → ramHolds s start (4 * regs.length) → ∃ m,
      leads (.push rlist r) s { put s 13 start with ram := m } ∧
      ∀ a, peek { s with ram := m } a =
        if within start (4 * regs.length) a then
          byteOfWords (regs.map (x s)) (a.toNat - start.toNat)
        else peek s a)

/-- POP: decoding; the loads in ascending order, then with the P bit the program counter through the
branch primitive (decision D11 of the spec), then the stack pointer; outside MMIO nothing else. Handlers
are read from `env` (log entry 6). It rests on the spec's decisions D1 to D6, D11, D15, D16, D30, D32
and D35 (log entries 6, 9 and 18). -/
def Obligations.PopFollowsRule : Prop :=
  ∀ (rlist : BitVec 8) (s t : State),
    let regs := listedRegs rlist
    decodesTo (0b1011110#7 ++ 0b0#1 ++ rlist) (.pop rlist false) ∧
    decodesTo (0b1011110#7 ++ 0b1#1 ++ rlist) (.pop rlist true) ∧
    (readAll regs (x s 13) s = some t →
      leads (.pop rlist false) s (put t 13 (x t 13 + BitVec.ofNat 32 (4 * regs.length))) ∧
      ∀ v u, readOf t (x s 13 + BitVec.ofNat 32 (4 * regs.length)) .word = some (v, u) →
        leads (.pop rlist true) s
          (put (jump u v) 13 (x u 13 + BitVec.ofNat 32 (4 * (regs.length + 1)))))

/-- STMIA: decoding; the stores in ascending order from the base, then the base, always; a base in the
list is stored as it was (decision D15 of the spec); and in RAM, every byte of memory after it. Handlers
are read from `env` (log entry 6). It rests on the spec's decisions D1 to D6, D15, D28 to D30, D32 and
D35 (log entries 6, 9 and 18). -/
def Obligations.StmiaFollowsRule : Prop :=
  ∀ (n : BitVec 3) (rlist : BitVec 8) (s : State),
    let regs := listedRegs rlist
    let base := x s (low n)
    decodesTo (0b11000#5 ++ n ++ rlist) (.stmia (low n) rlist) ∧
    (∀ t, writeAll regs base s = some t →
      leads (.stmia (low n) rlist) s
        (put t (low n) (x t (low n) + BitVec.ofNat 32 (4 * regs.length)))) ∧
    (Memory.wf s.ram → ramHolds s base (4 * regs.length) → ∃ m,
      leads (.stmia (low n) rlist) s
        { put s (low n) (base + BitVec.ofNat 32 (4 * regs.length)) with ram := m } ∧
      ∀ a, peek { s with ram := m } a =
        if within base (4 * regs.length) a then
          byteOfWords (regs.map (x s)) (a.toNat - base.toNat)
        else peek s a)

/-- LDMIA: decoding; the loads in ascending order from the original base; the base is written back
exactly when it is not in the list (decision D15 of the spec). Handlers are read from `env` (log entry
6). It rests on the spec's decisions D1 to D6, D15, D30, D32 and D35 (log entries 6, 9 and 18). -/
def Obligations.LdmiaFollowsRule : Prop :=
  ∀ (n : BitVec 3) (rlist : BitVec 8) (s t : State),
    let regs := listedRegs rlist
    decodesTo (0b11001#5 ++ n ++ rlist) (.ldmia (low n) rlist) ∧
    (readAll regs (x s (low n)) s = some t →
      leads (.ldmia (low n) rlist) s
        (if rlist.getLsbD n.toNat then t
         else put t (low n) (x s (low n) + BitVec.ofNat 32 (4 * regs.length))))

/-- PUSH then POP of one list, with any code in between that leaves the pushed bytes and the stack
pointer alone, restores every listed register and the stack pointer (R304, derived there). It rests on
the spec's decisions D1 to D3, D15 and D16 (log entry 18). -/
def Obligations.PushPopRoundTrip : Prop :=
  ∀ (rlist : BitVec 8) (s : State),
    let size := 4 * (listedRegs rlist).length
    let start := x s 13 - BitVec.ofNat 32 size
    Memory.wf s.ram → ramHolds s start size →
    ∃ t, leads (.push rlist false) s t ∧ x t 13 = start ∧
      ∀ u, u.cfg = t.cfg → x u 13 = x t 13 → (∀ a, within start size a → peek u a = peek t a) →
        ∃ v, leads (.pop rlist false) u v ∧ x v 13 = x s 13 ∧
          ∀ r, x v r = if r ∈ listedRegs rlist then x s r else if r = 13 then x s 13 else x u r

/-! ## 48_branch.md -/

/-- BEQ to BVC: each is taken exactly when its flag says so (R310 to R318). That a target's bit 0 is
dropped, which shows only where `x[15]` is odd, is the spec's decision D11 (log entry 18). -/
def Obligations.BranchesOnOneFlag : Prop :=
  ∀ (imm8 : BitVec 8) (s : State),
    branchesIf 0b0000 imm8 (.beq imm8) s s.flags.z ∧ branchesIf 0b0001 imm8 (.bne imm8) s (!s.flags.z) ∧
    branchesIf 0b0010 imm8 (.bcs imm8) s s.flags.c ∧ branchesIf 0b0011 imm8 (.bcc imm8) s (!s.flags.c) ∧
    branchesIf 0b0100 imm8 (.bmi imm8) s s.flags.n ∧ branchesIf 0b0101 imm8 (.bpl imm8) s (!s.flags.n) ∧
    branchesIf 0b0110 imm8 (.bvs imm8) s s.flags.v ∧ branchesIf 0b0111 imm8 (.bvc imm8) s (!s.flags.v)

/-- BHI to BLE, on two or three flags; and B, always (R310, R319 to R325). That a target's bit 0 is
dropped, which shows only where `x[15]` is odd, is the spec's decision D11 (log entry 18). -/
def Obligations.BranchesOnOrderAndAlways : Prop :=
  (∀ (imm8 : BitVec 8) (s : State),
    branchesIf 0b1000 imm8 (.bhi imm8) s (s.flags.c && !s.flags.z) ∧
    branchesIf 0b1001 imm8 (.bls imm8) s (!s.flags.c || s.flags.z) ∧
    branchesIf 0b1010 imm8 (.bge imm8) s (decide (s.flags.n = s.flags.v)) ∧
    branchesIf 0b1011 imm8 (.blt imm8) s (decide (s.flags.n ≠ s.flags.v)) ∧
    branchesIf 0b1100 imm8 (.bgt imm8) s (!s.flags.z && decide (s.flags.n = s.flags.v)) ∧
    branchesIf 0b1101 imm8 (.ble imm8) s (s.flags.z || decide (s.flags.n ≠ s.flags.v))) ∧
  ∀ (imm11 : BitVec 11) (s : State),
    decodesTo (0b11100#5 ++ imm11) (.b imm11) ∧
    leads (.b imm11) s (jump s (x s 15 + BitVec.ofInt 32 (imm11.toInt * 2)))

/-- The halves of BL: the prefix is recognised only before a suffix and puts the partial target in
`x[14]`; the suffix, wherever it stands, branches there and leaves the link (R131, R326, R327). That BL
is these two entries is the spec's decision D8, the bit 0 dropped from the target its decision D11 (log
entry 18). -/
def Obligations.LongBranchHalves : Prop :=
  ∀ (imm11 : BitVec 11) (s : State),
    (∀ next, decode (0b11110#5 ++ imm11) next = .ok (.blPrefix imm11) ↔
      next.extractLsb' 11 5 = 0b11111#5) ∧
    leads (.blPrefix imm11) s (put s 14 (x s 15 + BitVec.ofInt 32 (imm11.toInt * 2 ^ 12))) ∧
    decodesTo (0b11111#5 ++ imm11) (.blSuffix imm11) ∧
    leads (.blSuffix imm11) s
      (jump (put s 14 ((x s 15 - 2) ||| 1)) (x s 14 + BitVec.ofNat 32 (imm11.toNat * 2)))

/-- The pair of BL, each half executed by its own step: the target is the prefix's address plus 4 plus
the signed 23-bit offset, the link is the address after the pair with bit 0 set (48_branch.md section 4,
decisions D8 and D11 of the spec). It rests on the spec's decisions D8 and D11 (log entry 18). -/
def Obligations.LongBranchPair : Prop :=
  ∀ (hi lo : BitVec 11) (a : Word) (s : State), x s 15 = a + 4 →
    ∃ t, leads (.blPrefix hi) s t ∧
      leads (.blSuffix lo) (put t 15 (x t 15 + 2))
        (jump (put s 14 ((a + 4) ||| 1)) (a + 4 + (hi ++ lo ++ 0b0#1).signExtend 32))

/-! ## 49_system_noop.md -/

/-- The stubs: ROR and SVC do nothing, the five system instructions only skip their second halfword
(decisions D9 and D13 of the spec). It rests on the spec's decisions D9 and D13 (log entry 18). -/
def Obligations.StubsDoNothing : Prop :=
  (∀ (d m : BitVec 3) (imm8 : BitVec 8) (s : State),
    (f4 0b0111 m d (.rorReg (low d) (low m)) ∧ leads (.rorReg (low d) (low m)) s s) ∧
    (decodesTo (0b11011111#8 ++ imm8) (.svc imm8) ∧ leads (.svc imm8) s s)) ∧
  ∀ (r option : BitVec 4) (sysm : BitVec 8) (s : State),
    let skip := put s 15 (x s 15 + 2)
    (decode 0xF3EF (0b1000#4 ++ r ++ sysm) = .ok (.mrs (high r) sysm) ∧
      leads (.mrs (high r) sysm) s skip) ∧
    (decode (0xF38#12 ++ r) (0b10001000#8 ++ sysm) = .ok (.msr (high r) sysm) ∧
      leads (.msr (high r) sysm) s skip) ∧
    (decode 0xF3BF (0x8F4#12 ++ option) = .ok (.dsb option) ∧ leads (.dsb option) s skip) ∧
    (decode 0xF3BF (0x8F5#12 ++ option) = .ok (.dmb option) ∧ leads (.dmb option) s skip) ∧
    (decode 0xF3BF (0x8F6#12 ++ option) = .ok (.isb option) ∧ leads (.isb option) s skip)

/-! ## 60_exceptions.md -/

/-- Taking an exception, on any stack the accesses of which complete: the eight pushes in their order,
the vector, the link and the state bit (R370; decisions D16 to D20 of the spec). Handlers are read from
`env` (log entry 6). It rests on the spec's decisions D1 to D6, D16 to D20, D28 to D30, D32 and D35 and
its resolutions C1, C2 and C5 (log entries 6, 9 and 18). -/
def Obligations.ExceptionEntryFollowsRule : Prop :=
  ∀ (vector : Word) (s t : State), entered vector s = some t → exceptionEntry vector s = .ok t

/-- Taking an exception on a stack inside RAM: the eight words of the frame, every other byte of memory,
and every register, flag and latch after it (R370, R371; decisions D16 to D20 of the spec). It rests on
the spec's decisions D1 to D3 and D16 to D20 and its resolutions C1, C2 and C5 (log entry 18). -/
def Obligations.ExceptionEntryFrame : Prop :=
  ∀ (vector : Word) (s : State),
    let top := x s 13 - 32
    Memory.wf s.ram → ramHolds s top 32 → ∃ m,
      exceptionEntry vector s =
        .ok { put (jump (put s 13 top) vector) 14 0xFFFFFFF8 with ram := m, excActive := true } ∧
      ∀ a, peek { s with ram := m } a =
        if within top 32 a then
          byteOfWords [x s 0, x s 1, x s 2, x s 3, x s 12, x s 14, x s 15, psrWord s.flags]
            (a.toNat - top.toNat)
        else peek s a

/-- Returning from an exception: the eight pops in their order, wherever the accesses complete (R375;
the layout of the flags word is decision D17 of the spec). Handlers are read from `env` (log entry 6).
It rests on the spec's decisions D1 to D6, D16, D17, D24, D30, D32 and D35 and its resolution C1 (log
entries 6, 9 and 18). -/
def Obligations.ExceptionExitFollowsRule : Prop :=
  ∀ s t : State, exited s = some t → exceptionExit s = .ok t

/-- Entry, then any handler that leaves the frame and puts the stack pointer back, then exit: the
stacked registers, the flags, the stack pointer and the program counter are as before the entry; the
other registers are as the handler left them (R378, derived there; decisions D16 to D20 of the spec). It
rests on the spec's decisions D1 to D3 and D16 to D20 and its resolutions C1, C2 and C5 (log entry 18).
-/
def Obligations.ExceptionRoundTrip : Prop :=
  ∀ (vector : Word) (s : State),
    let top := x s 13 - 32
    Memory.wf s.ram → ramHolds s top 32 → (x s 15).toNat % 2 = 0 →
    ∃ t, exceptionEntry vector s = .ok t ∧
      ∀ u, u.cfg = t.cfg → x u 13 = top → (∀ a, within top 32 a → peek u a = peek t a) →
        ∃ v, exceptionExit u = .ok v ∧ v.flags = s.flags ∧ v.excActive = false ∧
          (∀ r : Reg, x v r = if 4 ≤ r.val ∧ r.val ≤ 11 then x u r else x s r) ∧
          v = { u with regs := v.regs, flags := v.flags, excActive := false }

/-- The interrupt check (R367, R368; decision D21 of the spec): only with no handler active, DMA
completion before the tick; an entry clears the serviced bit, takes the exception through that source's
vector, and does nothing else. In every other state the step goes on. It rests on the spec's decisions
D7, D21, D22, D32 and D33 (log entries 5, 9, 13 and 18). -/
def Obligations.InterruptCheck : Prop :=
  ∀ s : State,
    (s.excActive = false → s.dmaPending = true →
      step s = match exceptionEntry s.vecDma { s with dmaPending := false } with
        | .ok t => .next (note t (.entered .dma))
        | .error f => .fault f) ∧
    (s.excActive = false → s.dmaPending = false → s.tickPending = true →
      step s = match exceptionEntry s.vecTick { s with tickPending := false } with
        | .ok t => .next (note t (.entered .tick))
        | .error f => .fault f) ∧
    (noEntry s → address s ≠ 0xFFFFFFF8 → step s = runAt s)

/-- A step that finds the instruction address at the sentinel exits, as often as the restored address is
again the sentinel, and then executes the instruction at the restored address (R374 to R376; decisions
D24 and D25 of the spec; at most `exitFuel` exits, log entry 7). Handlers are read from `env` (log entry
6). It rests on the spec's decisions D1 to D7, D16, D17, D22, D24, D25, D30, D32, D33 and D35 and its
resolution C1 (log entries 5, 6, 7, 9, 13 and 18). -/
def Obligations.SentinelExitsThenRuns : Prop :=
  ∀ (n : Nat) (s t : State), noEntry s → n ≤ exitFuel → Exits n s t → address t ≠ 0xFFFFFFF8 →
    step s = runAt t

/-- The sequencer's registers (R391, R392, R395, R396; decisions D29 and D30 of the spec): a write of
any width to the channel-id or base register sets it and nothing else; a write of any width and value to
the trigger runs the whole transfer; the status register reads its fixed value. It rests on the spec's
decisions D1 to D6, D28 to D30 and D32 (log entries 9, 17 and 18). -/
def Obligations.DmaRegistersFollowRules : Prop :=
  ∀ (s : State) (a v : Word) (w : Width), inMmio a →
    (heldAt s.writeHandlers a = some .dmaChid →
      memWrite a w v s = .ok { s with dmaChid := keep w v }) ∧
    (heldAt s.writeHandlers a = some .dmaBase →
      memWrite a w v s = .ok { s with dmaBase := keep w v }) ∧
    (heldAt s.writeHandlers a = some .dmaTrigger → ∀ t, transferred s = some t →
      memWrite a w v s = .ok t) ∧
    (heldAt s.cfg.statusStubs a = none → heldAt s.readHandlers a = some .dmaStatus →
      memRead a w s = .ok (keep w s.cfg.dmaChStatusValue, s)) ∧
    (heldAt s.cfg.statusStubs a = none → heldAt s.readHandlers a = none →
      memRead a w s = .ok (0, note s (.unmappedRead a)))

/-- A transfer from memory to RAM, the two byte ranges apart: the destination holds the source's bytes,
every other byte of memory is as before, the chain advances and the completion is pending; nothing else
changes (R392, R394). It rests on the spec's decisions D1 to D5, D28 and D29 (log entry 18). -/
def Obligations.DmaTransferCopiesBytes : Prop :=
  ∀ (s : State) (trigger v : Word) (w : Width) (count src dst next : Word),
    let d := descriptor s
    inMmio trigger → heldAt s.writeHandlers trigger = some .dmaTrigger → Memory.wf s.ram →
    ¬ inMmio (d + s.cfg.dmaCntOff) → plainAt s (d + s.cfg.dmaCntOff) s.cfg.dmaCntWidth = count →
    ¬ inMmio (d + s.cfg.dmaSrcOff) → plainAt s (d + s.cfg.dmaSrcOff) .word = src →
    ¬ inMmio (d + s.cfg.dmaDstOff) → plainAt s (d + s.cfg.dmaDstOff) .word = dst →
    ¬ inMmio (d + s.cfg.dmaNextOff) → plainAt s (d + s.cfg.dmaNextOff) .word = next →
    ramHolds s dst count.toNat → src.toNat + count.toNat ≤ 0x40000000 →
    (src.toNat + count.toNat ≤ dst.toNat ∨ dst.toNat + count.toNat ≤ src.toNat) →
    ∃ m, memWrite trigger w v s =
        .ok { s with ram := m, dmaCurDesc := next, dmaPending := true } ∧
      ∀ a, peek { s with ram := m } a =
        if within dst count.toNat a then peek s (src + (a - dst)) else peek s a

/-- A transfer of at least one byte whose destination starts on the trigger triggers itself without end:
the step hangs, by name (R397, derived there; U6; the bound is log entry 7). It rests on the spec's
decisions D1 to D5, D25, D28 and D29 (log entries 7 and 18). -/
def Obligations.SelfTriggeringTransferHangs : Prop :=
  ∀ (s : State) (trigger v : Word) (w : Width) (src : Word),
    let d := descriptor s
    inMmio trigger → heldAt s.writeHandlers trigger = some .dmaTrigger →
    ¬ inMmio (d + s.cfg.dmaCntOff) → plainAt s (d + s.cfg.dmaCntOff) s.cfg.dmaCntWidth ≠ 0 →
    ¬ inMmio (d + s.cfg.dmaSrcOff) → plainAt s (d + s.cfg.dmaSrcOff) .word = src → ¬ inMmio src →
    ¬ inMmio (d + s.cfg.dmaDstOff) → plainAt s (d + s.cfg.dmaDstOff) .word = trigger →
    ¬ inMmio (d + s.cfg.dmaNextOff) →
    memWrite trigger w v s = .error .accessHang

/-! ## 40_step_engine.md -/

/-- A step runs the decoded instruction: with no interrupt to take and the instruction address away from
the sentinel, the step is the execution of the instruction the cache holds there, on the state whose
program counter has advanced to `A + 4`, followed by one tick (R140, R142). It rests on the spec's
decisions D7 to D9, D22 and D32 (log entries 5, 9, 13 and 18). -/
def Obligations.StepRunsDecodedInstruction : Prop :=
  ∀ (s : State) (i : Instr), noEntry s → address s ≠ 0xFFFFFFF8 → cacheAt s (address s) = some i →
    wellFormed i = true ∧ x (put s 15 (x s 15 + 2)) 15 = address s + 4 ∧
    step s = match exec i (put s 15 (address s + 4)) with
      | .next t => .next (ticked (.executed i) t)
      | .fault f => .fault f
      | .refused r => .refused r

/-- Where the cache has no entry, the step is a no-op that advances by 2 and counts one tick: no
register but `x[15]`, no flag, no byte of memory changes (R145, decision D33 of the spec). It rests on
the spec's decisions D7, D22, D32 and D33 (log entries 5, 9 and 18). -/
def Obligations.UnrecognisedStepIsNoOp : Prop :=
  ∀ s : State, noEntry s → address s ≠ 0xFFFFFFF8 →
    (address s).toNat % 2 = 1 ∨ s.cfg.romSize ≤ (address s).toNat ∨ cacheAt s (address s) = none →
    step s = .next (ticked (.unrecognised (address s)) (put s 15 (address s + 4)))

/-- Tick accounting (R147, R362, decision D22 of the spec): a step that makes no entry counts one tick,
whatever it executed; reaching the threshold zeroes the counter and sets the pending bit; an entry
counts none. It rests on the spec's decisions D21, D22 and D36 (log entry 18). -/
def Obligations.TicksCountExecutedSteps : Prop :=
  ∀ s t : State, step s = .next t →
    (noEntry s →
      t.tickCount = (if s.tickCount + 1 ≥ s.cfg.tickThreshold then 0 else s.tickCount + 1) ∧
      t.tickPending = (s.tickPending || decide (s.tickCount + 1 ≥ s.cfg.tickThreshold))) ∧
    (¬ noEntry s → t.tickCount = s.tickCount ∧
      t.tickPending = (s.tickPending && s.dmaPending))

/-- The state machine of R377 (derived there; decisions D21 and D24 of the spec): a step sets
`exc_active` only by an entry, and clears it only from the sentinel. It rests on the spec's decisions
D21 and D24 (log entry 18). -/
def Obligations.OnlyEntryAndExitChangeMode : Prop :=
  ∀ s t : State, step s = .next t →
    (¬ noEntry s → t.excActive = true) ∧
    (noEntry s → address s = 0xFFFFFFF8 → t.excActive = false) ∧
    (noEntry s → address s ≠ 0xFFFFFFF8 → t.excActive = s.excActive)

/-- The signal sets the DMA pending bit and nothing else (R366); a pending bit is cleared only by being
serviced (10_state.md R35; decisions D21 and D22 of the spec): a step that does not service a source
leaves its bit set. It rests on the spec's decisions D21 and D22 (log entry 18). -/
def Obligations.PendingUntilServiced : Prop :=
  (∀ s : State, perform .signalDma s = .next { s with dmaPending := true }) ∧
  ∀ s t : State, step s = .next t →
    (s.dmaPending = true → s.excActive = true → t.dmaPending = true) ∧
    (s.tickPending = true → s.excActive = true ∨ s.dmaPending = true → t.tickPending = true)

/-- No instruction raises anything (60_exceptions.md R360): executing one never makes an entry or an
exit or counts a tick, never withdraws a pending interrupt, and is never refused. It rests on the spec's
decisions D13, D25 and D35 (log entries 6, 7 and 18). -/
def Obligations.InstructionsRaiseNothing : Prop :=
  ∀ (i : Instr) (s : State),
    (∀ r, exec i s ≠ .refused r) ∧ (∀ f, exec i s = .fault f → f = .accessHang) ∧
    ∀ t, exec i s = .next t →
      t.excActive = s.excActive ∧ t.tickPending = s.tickPending ∧ t.tickCount = s.tickCount ∧
      t.vecTick = s.vecTick ∧ t.vecDma = s.vecDma ∧ (s.dmaPending = true → t.dmaPending = true)

/-- The registers an instruction does not name keep their values (10_state.md R23), in every state in
which no handler call is listed. That an empty `env` means that handlers make no calls is the model's
choice, log entry 6; handlers with calls, which may write registers (20_memory.md R74), are left out. It
rests on the spec's decisions D8, D9, D13, D15 and D35 (log entries 6 and 18). -/
def Obligations.OnlyNamedRegistersChange : Prop :=
  ∀ (i : Instr) (s t : State), s.env = [] → exec i s = .next t →
    ∀ r, r ∉ writes i → x t r = x s r

/-- The flags an instruction does not write keep their values (10_state.md R28, derived there), in every
state in which no handler call is listed. That an empty `env` means that handlers make no calls is the
model's choice, log entry 6; handlers with calls, which may write flags (20_memory.md R74), are left
out. It rests on the spec's decisions D9, D13 and D35 and its resolution C9 (log entries 6 and 18). -/
def Obligations.OnlyNamedFlagsChange : Prop :=
  ∀ (i : Instr) (s t : State), s.env = [] → exec i s = .next t →
    (flagClass i ≠ .all → t.flags.v = s.flags.v) ∧
    (flagClass i = .nz ∨ flagClass i = .none → t.flags.c = s.flags.c) ∧
    (flagClass i = .none → t.flags = s.flags)

/-- No step changes the code or what it is decoded under (20_memory.md R65, R88; 10_state.md R20, R33,
R40, R41): the configuration, ROM, the decoded cache, the vector latches and the registry. It rests on
the spec's decisions D33 and D35 (log entries 1, 5, 6 and 18). -/
def Obligations.StepKeepsCodeVectorsAndRegistry : Prop :=
  ∀ s t : State, step s = .next t →
    t.cfg = s.cfg ∧ t.rom = s.rom ∧ t.icache = s.icache ∧ t.vecTick = s.vecTick ∧
    t.vecDma = s.vecDma ∧ t.readHandlers = s.readHandlers ∧ t.writeHandlers = s.writeHandlers

/-- Every step ends where the environment has no handler and no transfer can be triggered, whatever the
registers, the memory and the instruction are: the exits of one step are finitely many, and no
instruction stops (R149, R437; the bounds are log entry 7). It rests on the spec's decisions D25 and D34
(log entries 7 and 18). -/
def Obligations.StepEndsWithoutHandlers : Prop :=
  ∀ s : State, (∀ c ∈ s.readHandlers, c.2 ≠ .env) →
    (∀ c ∈ s.writeHandlers, c.2 ≠ .env ∧ c.2 ≠ .dmaTrigger) →
    (∀ i, ∃ t, exec i s = .next t) ∧ ∃ t, step s = .next t

/-- The output is written and never read (R146, R46; decision D32 of the spec; log entry 9): states that
differ only in it step alike. It rests on the spec's decision D32 (log entries 9 and 18). -/
def Obligations.OutputChangesNothing : Prop :=
  ∀ (s : State) (tr : List Event),
    match step s, step { s with trace := tr } with
    | .next t, .next u => sameButOutput t u
    | .fault f, .fault g => f = g
    | .refused f, .refused g => f = g
    | _, _ => False

/-! ## 30_encoding.md -/

/-- Decode inverts encode: the bytes of a well-formed instruction, before any bytes its encoding admits,
decode to it. What the BL prefix admits is decision D8 of the spec. It rests on the spec's decisions D8,
D9 and D12 (log entries 10 and 18). -/
def Obligations.DecodeInvertsEncode : Prop :=
  ∀ (i : Instr) (rest : List Byte), wellFormed i = true → admitsNext i (peekHalf rest) = true →
    decodeBytes ((encode i).flatMap (fun hw => [hw.extractLsb' 0 8, hw.extractLsb' 8 8]) ++ rest) =
      .ok i

/-- Encode inverts decode: what decodes is well-formed, and encoding it gives the halfwords back, but
for bits 2:0 of BX and BLX, which are ignored (decision D12 of the spec) and written 0. It rests on the
spec's decisions D8, D9 and D12 (log entries 10 and 18). -/
def Obligations.EncodeInvertsDecode : Prop :=
  ∀ (hw next : Half) (i : Instr), decode hw next = .ok i →
    wellFormed i = true ∧
    match i with
    | .bx _ | .blxReg _ => encode i = [hw &&& 0xFFF8#16]
    | .mrs _ _ | .msr _ _ | .dsb _ | .dmb _ | .isb _ => encode i = [hw, next]
    | _ => encode i = [hw]

/-- The unrecognised encodings are exactly those of R124: the listed ranges, and `0xF000` to `0xF7FF`
before a halfword that makes it neither a BL prefix nor a two-halfword system instruction (decisions D8
and D9 of the spec). It rests on the spec's decisions D8, D9 and D34 (log entry 18). -/
def Obligations.UnrecognisedExactlyThese : Prop :=
  ∀ hw next : Half,
    let a := hw.toNat
    let b := next.toNat
    (∃ e, decode hw next = .error e) ↔
      (0xB100 ≤ a ∧ a ≤ 0xB1FF) ∨ (0xB300 ≤ a ∧ a ≤ 0xB3FF) ∨ (0xB600 ≤ a ∧ a ≤ 0xB9FF) ∨
      (0xBA80 ≤ a ∧ a ≤ 0xBABF) ∨ (0xBB00 ≤ a ∧ a ≤ 0xBBFF) ∨ (0xBE00 ≤ a ∧ a ≤ 0xBFFF) ∨
      (0xDE00 ≤ a ∧ a ≤ 0xDEFF) ∨ (0xE800 ≤ a ∧ a ≤ 0xEFFF) ∨
      (0xF000 ≤ a ∧ a ≤ 0xF7FF ∧ ¬ 0xF800 ≤ b ∧
        ¬ (a = 0xF3EF ∧ 0x8000 ≤ b ∧ b ≤ 0x8FFF) ∧
        ¬ (0xF380 ≤ a ∧ a ≤ 0xF38F ∧ 0x8800 ≤ b ∧ b ≤ 0x88FF) ∧
        ¬ (a = 0xF3BF ∧ 0x8F40 ≤ b ∧ b ≤ 0x8F6F))

/-- A few words, each written out from the spec's encodings, decode to the instruction they stand for
(the BL prefix and MRS by decisions D8 and D9 of the spec). It rests on the spec's decisions D8 and D9
(log entry 18). -/
def Obligations.SpecWordsDecode : Prop :=
  decodesTo 0x2080 (.movImm8 0 128) ∧ decodesTo 0x0108 (.lslImm 0 1 4) ∧
  decodesTo 0x1888 (.addReg 0 1 2) ∧ decodesTo 0x4288 (.cmpReg 0 1) ∧
  decodesTo 0x448D (.addHi 13 1) ∧ decodesTo 0x4801 (.ldrLit 0 1) ∧
  decodesTo 0x60C8 (.strImm5 0 1 3) ∧ decodesTo 0xB505 (.push 0b00000101 true) ∧
  decodesTo 0xC907 (.ldmia 1 0b00000111) ∧ decodesTo 0xD0FE (.beq 0xFE) ∧
  decode 0xF001 0xF800 = .ok (.blPrefix 1) ∧ decode 0xF3EF 0x8010 = .ok (.mrs 0 16)

/-! ## 10_state.md, 70_reset_and_hazards.md: reset and the state -/

/-- The block right after construction (10_state.md R45, 70_reset_and_hazards.md R422; decision D26 of
the spec): its registers and latches, and every address of memory reading as erased, or 0 where nothing
is backed. It rests on the spec's decisions D3 and D26 (log entries 2, 3, 8 and 18). -/
def Obligations.ConstructionState : Prop :=
  construct defaultConfig = .ok State.reset ∧
  (∀ r : Reg, x State.reset r = if r = 13 ∨ r = 14 then 0xFFFFFFFF else 0) ∧
  State.reset.flags = ⟨false, false, false, false⟩ ∧
  (∀ a, peek State.reset a =
    if a.toNat < 0x40000 ∨ (0x20000000 ≤ a.toNat ∧ a.toNat < 0x20008000) then 0xFF else 0) ∧
  (∀ a, cacheAt State.reset a = none) ∧ StateOk State.reset

/-- `reset(offset)` (R421, R44; decision D26 of the spec for the cleared cells), with the four words of
the table outside MMIO: every cell of the state after it. It rests on the spec's decisions D1 to D4 and
D26 (log entries 3, 15 and 18). -/
def Obligations.ResetFollowsRule : Prop :=
  ∀ (s : State) (offset : Word), ¬ inMmio offset → ¬ inMmio (offset + 4) → ¬ inMmio (offset + 0x3C) →
    ¬ inMmio (offset + 0x58) →
    ∃ t, perform (.reset offset) s = .next t ∧
      (∀ r : Reg, x t r = if r = 13 then plainAt s offset .word else if r = 14 then 0xFFFFFFFF
        else if r = 15 then (plainAt s (offset + 4) .word &&& 0xFFFFFFFE#32) + 2 else 0) ∧
      t = { s with
        regs := t.regs
        flags := ⟨false, false, false, false⟩
        vecTick := plainAt s (offset + 0x3C) .word
        vecDma := plainAt s (offset + 0x58) .word
        tickCount := 0, tickPending := false, dmaPending := false, excActive := false
        dmaCurDesc := 0, dmaChid := 0, dmaBase := 0 }

/-- `load_flash` forgets the past (R420, R425; decision D27 of the spec): what it leaves depends on the
image, the offset and the configuration alone, but for the registry, the environment and the output; ROM
holds the image over erased bytes, RAM is erased, and the cache is decoded from that ROM. It rests on
the spec's decisions D1 to D4, D7, D26 and D27 (log entries 3, 5, 15 and 18). -/
def Obligations.LoadFlashForgetsThePast : Prop :=
  ∀ (image : List Byte) (offset : Word) (s u : State), s.cfg = u.cfg →
    ¬ inMmio offset → ¬ inMmio (offset + 4) → ¬ inMmio (offset + 0x3C) → ¬ inMmio (offset + 0x58) →
    ∃ t v, perform (.loadFlash image offset) s = .next t ∧
      perform (.loadFlash image offset) u = .next v ∧
      v = { t with readHandlers := u.readHandlers, writeHandlers := u.writeHandlers, env := u.env,
                   envCount := u.envCount, trace := u.trace } ∧
      t.readHandlers = s.readHandlers ∧ t.writeHandlers = s.writeHandlers ∧
      t.ram = [] ∧ t.icache = .decoded t.rom ∧
      ∀ o, romAt t o = if s.cfg.romSize ≤ o then 0
        else if offset.toNat ≤ o then (image[o - offset.toNat]?).getD 0xFF else 0xFF

/-- The last registration for an address wins, at exactly that address (20_memory.md R70). See log entry
17. -/
def Obligations.LastRegistrationWins : Prop :=
  ∀ (s : State) (addr b : Word), risingKeys s.readHandlers → risingKeys s.writeHandlers →
    ∃ t u, perform (.registerRead addr) s = .next t ∧ perform (.registerWrite addr) s = .next u ∧
      heldAt t.readHandlers b = (if b = addr then some .env else heldAt s.readHandlers b) ∧
      t.writeHandlers = s.writeHandlers ∧
      heldAt u.writeHandlers b = (if b = addr then some .env else heldAt s.writeHandlers b) ∧
      u.readHandlers = s.readHandlers

/-- Every step keeps the invariant of the state: both memories canonical and inside their arrays, the
tick counter below the threshold, the registry canonical, the configuration legal (10_state.md R34, R38,
R41; 00_scope.md R8; log entry 8). It rests on the spec's decisions D3 and D36 (log entries 8 and 18).
-/
def Obligations.StepKeepsStateOk : Prop :=
  ∀ s t : State, StateOk s → step s = .next t → StateOk t

/-- Every command of the host keeps the invariant of the state (00_scope.md R5). It rests on the spec's
decisions D3, D35 and D36 (log entries 8, 18 and 19). -/
def Obligations.CommandsKeepStateOk : Prop :=
  ∀ (c : Command) (s t : State), StateOk s → perform c s = .next t → StateOk t

end
end

