-- ==== Sys2Proof/Laws/Encoding.lean ====
section
/-! SUPPORT. The opcode table: its rows are pairwise disjoint, so a row that matches is the one the
decoder uses. -/

namespace Sys2Proof.Laws

open Sys2Proof

/-- Two rows fix some common bit of the first or of the following halfword differently. -/
def rowsApart (r q : Row) : Bool :=
  ((r.mask &&& q.mask) &&& (r.pattern ^^^ q.pattern)) != 0 ||
    match r.next, q.next with
    | some (m, p), some (m', p') => ((m &&& m') &&& (p ^^^ p')) != 0
    | _, _ => false

theorem opcodeTable_rowsApart : opcodeTable.Pairwise fun r q => rowsApart r q = true := by
  decide +kernel

theorem masks_disagree {x m m' : Half} : (m &&& m') &&& ((x &&& m) ^^^ (x &&& m')) = 0 := by
  ext i
  simp only [BitVec.getElem_and, BitVec.getElem_xor]
  cases m[i] <;> cases m'[i] <;> cases x[i] <;> simp

theorem rowsApart_not_both {r q : Row} {hw hw2 : Half} (h : rowsApart r q = true)
    (hr : rowHits r hw hw2 = true) (hq : rowHits q hw hw2 = true) : False := by
  simp only [rowHits, Bool.and_eq_true, beq_iff_eq] at hr hq
  obtain ⟨hr1, hr2⟩ := hr
  obtain ⟨hq1, hq2⟩ := hq
  simp only [rowsApart, Bool.or_eq_true, bne_iff_ne] at h
  rcases h with h | h
  · exact h (by rw [← hr1, ← hq1]; exact masks_disagree)
  · cases hn : r.next with
    | none => simp [hn] at h
    | some mp =>
      cases hn' : q.next with
      | none => simp [hn, hn'] at h
      | some mp' =>
        simp only [hn, hn', beq_iff_eq, bne_iff_ne] at h hr2 hq2
        exact h (by rw [← hr2, ← hq2]; exact masks_disagree)

theorem find_of_rowsApart {l : List Row} (hl : l.Pairwise fun r q => rowsApart r q = true) {r : Row}
    (hr : r ∈ l) {hw hw2 : Half} (h : rowHits r hw hw2 = true) :
    l.find? (fun q => rowHits q hw hw2) = some r := by
  induction l with
  | nil => cases hr
  | cons c cs ih =>
    obtain ⟨hc, hcs⟩ := List.pairwise_cons.mp hl
    rcases List.mem_cons.mp hr with rfl | hmem
    · simp [h]
    · have : rowHits c hw hw2 = false := by
        cases hb : rowHits c hw hw2 with
        | false => rfl
        | true => exact (rowsApart_not_both (hc r hmem) hb h).elim
      simp [this, ih hcs hmem]

/-- A row of the table that matches is the row the decoder uses (R130, R133). -/
theorem decode_of_row {r : Row} (hr : r ∈ opcodeTable) {hw hw2 : Half}
    (h : rowHits r hw hw2 = true) : decode hw hw2 = .ok (r.build hw hw2) := by
  simp [decode, find_of_rowsApart opcodeTable_rowsApart hr h]

/-- What the decoder answers comes from a row that matches. -/
theorem row_of_decode {hw hw2 : Half} {i : Instr} (h : decode hw hw2 = .ok i) :
    ∃ r ∈ opcodeTable, rowHits r hw hw2 = true ∧ i = r.build hw hw2 := by
  unfold decode at h
  split at h
  · rename_i r hf
    exact ⟨r, List.mem_of_find?_eq_some hf, by simpa using List.find?_some hf, by injection h with h; exact h.symm⟩
  · cases h

/-- The bits above bit `j`, as arithmetic. -/
theorem and_highMask (x : Half) (j : Nat) (hj : j ≤ 16) :
    (x &&& BitVec.ofNat 16 (2 ^ 16 - 2 ^ j)).toNat = x.toNat / 2 ^ j * 2 ^ j := by
  have key : BitVec.ofNat 16 (2 ^ 16 - 2 ^ j) = (BitVec.allOnes 16 >>> j) <<< j := by
    interval_cases j <;> rfl
  rw [key]
  apply Nat.eq_of_testBit_eq
  intro i
  rw [Nat.testBit_mul_two_pow, Nat.testBit_div_two_pow, BitVec.testBit_toNat]
  simp only [BitVec.getLsbD_and, BitVec.getLsbD_shiftLeft, BitVec.getLsbD_ushiftRight,
    BitVec.getLsbD_allOnes, BitVec.testBit_toNat]
  by_cases h : j ≤ i
  · by_cases h16 : i < 16
    · simp [h, h16, Nat.not_lt.mpr h, show j + (i - j) = i by omega]
    · have : x.getLsbD i = false := BitVec.getLsbD_of_ge _ _ (by omega)
      simp [h, this, show j + (i - j) = i by omega]
  · simp [h, show i < j by omega]

/-- A match under a mask of high bits, as arithmetic. -/
theorem highMask_match (x p : Half) (j : Nat) (hj : j ≤ 16) (hp : x.toNat / 2 ^ j * 2 ^ j = p.toNat) :
    (x &&& BitVec.ofNat 16 (2 ^ 16 - 2 ^ j) == p) = true := by
  rw [beq_iff_eq]
  exact BitVec.eq_of_toNat_eq (by rw [and_highMask x j hj, hp])

theorem rowHits_one {m p x : Half} {f : Half → Half → Instr} {next : Half}
    (h : (x &&& m == p) = true) : rowHits ⟨m, p, none, f⟩ x next = true := by
  simpa [rowHits] using h

theorem rowHits_two {m p m' p' x next : Half} {f : Half → Half → Instr}
    (h : (x &&& m == p) = true) (h' : (next &&& m' == p') = true) :
    rowHits ⟨m, p, some (m', p'), f⟩ x next = true := by
  simp only [rowHits, h, h', Bool.and_true]

theorem asHalf_toNat {n : Nat} (h : n < 65536) : (asHalf n).toNat = n := by
  simp [asHalf, Nat.mod_eq_of_lt h]

end Sys2Proof.Laws
end

