-- ==== Sys2Proof/Laws/Memory.lean ====
section
/-! SUPPORT. The laws of the sparse lists and of backing memory: read after write, every other
address unchanged, and every operation keeps the canonical form. -/

namespace Sys2Proof.Laws

open Sys2Proof Machine

/-! ### Lists by address -/

theorem lookupKey_of_lt {α : Type} {m : List (Nat × α)} {a : Nat} (h : ∀ c ∈ m, a < c.1) :
    lookupKey m a = none := by
  induction m with
  | nil => rfl
  | cons c cs ih =>
    have hc := h c (by simp)
    simp [lookupKey, show c.1 ≠ a by omega, ih fun d hd => h d (by simp [hd])]

theorem lookupKey_insertKey {α : Type} (a : Nat) (v : α) (m : List (Nat × α)) (h : risingKeys m)
    (b : Nat) : lookupKey (insertKey a v m) b = if b = a then some v else lookupKey m b := by
  induction m with
  | nil => by_cases hb : b = a <;> simp [insertKey, lookupKey, hb, Ne.symm]
  | cons c cs ih =>
    obtain ⟨hc, hcs⟩ := List.pairwise_cons.mp h
    unfold insertKey
    split
    · by_cases hb : b = a
      · simp [lookupKey, hb]
      · simp [lookupKey, hb, Ne.symm hb]
    · split
      · by_cases hb : b = a
        · simp [lookupKey, hb]
        · simp [lookupKey, hb, Ne.symm hb, show c.1 ≠ b by omega]
      · by_cases hb : b = a
        · subst hb; simp [lookupKey, ih hcs, *]
        · simp [lookupKey, ih hcs, hb]

theorem mem_insertKey {α : Type} {a : Nat} {v : α} {m : List (Nat × α)} {c : Nat × α}
    (h : c ∈ insertKey a v m) : c = (a, v) ∨ c ∈ m := by
  induction m with
  | nil => simpa [insertKey] using h
  | cons d ds ih =>
    unfold insertKey at h
    split at h
    · simpa using h
    · split at h
      · rcases List.mem_cons.mp h with rfl | h
        · simp
        · simp [h]
      · rcases List.mem_cons.mp h with rfl | h
        · simp
        · rcases ih h with rfl | h
          · simp
          · simp [h]

theorem risingKeys_insertKey {α : Type} (a : Nat) (v : α) {m : List (Nat × α)} (h : risingKeys m) :
    risingKeys (insertKey a v m) := by
  induction m with
  | nil => simp [insertKey, risingKeys]
  | cons c cs ih =>
    obtain ⟨hc, hcs⟩ := List.pairwise_cons.mp h
    unfold insertKey
    split
    · refine List.pairwise_cons.mpr ⟨fun d hd => ?_, h⟩
      rcases List.mem_cons.mp hd with rfl | hd
      · assumption
      · exact lt_trans ‹_› (hc d hd)
    · split
      · exact List.pairwise_cons.mpr ⟨fun d hd => by have := hc d hd; simp only; omega, hcs⟩
      · refine List.pairwise_cons.mpr ⟨fun d hd => ?_, ih hcs⟩
        rcases mem_insertKey hd with rfl | hd
        · simp only; omega
        · exact hc d hd

theorem lookupKey_eraseKey {α : Type} (a : Nat) (m : List (Nat × α)) (b : Nat) :
    lookupKey (eraseKey a m) b = if b = a then none else lookupKey m b := by
  induction m with
  | nil => simp [eraseKey, lookupKey]
  | cons c cs ih =>
    simp only [eraseKey] at ih ⊢
    by_cases hc : c.1 = a
    · subst hc
      simp only [List.filter, bne_self_eq_false, ih, lookupKey]
      by_cases hb : b = c.1
      · simp [hb]
      · simp [hb, Ne.symm hb]
    · simp only [List.filter, bne_iff_ne.mpr hc, lookupKey, ih]
      by_cases hb : b = a
      · subst hb; simp [hc]
      · simp [hb]

theorem risingKeys_eraseKey {α : Type} (a : Nat) {m : List (Nat × α)} (h : risingKeys m) :
    risingKeys (eraseKey a m) := h.filter _

/-! ### Backing memory -/

/-- Read after write: the written address reads as the value, every other one as before. -/
theorem Memory.get_set (m : Memory) (h : m.wf) (a : Nat) (v : Byte) (b : Nat) :
    (m.set a v).get b = if b = a then v else m.get b := by
  unfold Memory.get Memory.set
  split
  · subst v
    rw [lookupKey_eraseKey]
    split <;> rfl
  · rw [lookupKey_insertKey _ _ _ h.1]
    split <;> rfl

theorem Memory.wf_set {m : Memory} (h : m.wf) (a : Nat) (v : Byte) : (m.set a v).wf := by
  unfold Memory.set
  split
  · exact ⟨risingKeys_eraseKey a h.1, fun c hc => h.2 c (List.mem_of_mem_filter hc)⟩
  · refine ⟨risingKeys_insertKey a v h.1, fun c hc => ?_⟩
    rcases mem_insertKey hc with rfl | hc
    · assumption
    · exact h.2 c hc

/-- A byte that a write lists is the written one or was listed before. -/
theorem Memory.mem_set {m : Memory} {a : Nat} {v : Byte} {c : Host.Cell} (h : c ∈ m.set a v) :
    c = (a, v) ∨ c ∈ m := by
  unfold Memory.set at h
  split at h
  · exact .inr (List.mem_of_mem_filter h)
  · exact mem_insertKey h

theorem Memory.wf_setBytes {m : Memory} (h : m.wf) (a : Nat) (bs : List Byte) :
    (m.setBytes a bs).wf := by
  induction bs generalizing m a with
  | nil => exact h
  | cons b bs ih => exact ih (Memory.wf_set h a b) (a + 1)

theorem Memory.wf_nil : Memory.wf [] := by simp [Memory.wf, risingKeys]

/-- Equal contents are equal data: two memories in canonical form that read the same everywhere are
the same list. -/
theorem Memory.ext {m m' : Memory} (h : m.wf) (h' : m'.wf) (hg : ∀ a, m.get a = m'.get a) : m = m' := by
  have look : ∀ {n : Memory}, n.wf → ∀ {a v}, lookupKey n a = some v → v ≠ fillByte := by
    intro n hn a v hv
    induction n with
    | nil => cases hv
    | cons c cs ih =>
      unfold lookupKey at hv
      split at hv
      · injection hv with hv; exact hv ▸ hn.2 c (by simp)
      · exact ih ⟨(List.pairwise_cons.mp hn.1).2, fun d hd => hn.2 d (by simp [hd])⟩ hv
  have same : ∀ a, lookupKey m a = lookupKey m' a := by
    intro a
    have := hg a
    unfold Memory.get at this
    cases hm : lookupKey m a <;> cases hm' : lookupKey m' a <;> simp only [hm, hm', Option.getD] at this
    · rfl
    · exact (look h' hm' this.symm).elim
    · exact (look h hm this).elim
    · rw [this]
  clear hg look
  induction m generalizing m' with
  | nil =>
    cases m' with
    | nil => rfl
    | cons c cs => have := same c.1; simp [lookupKey] at this
  | cons c cs ih =>
    cases m' with
    | nil => have := same c.1; simp [lookupKey] at this
    | cons d ds =>
      obtain ⟨hc, hcs⟩ := List.pairwise_cons.mp h.1
      obtain ⟨hd, hds⟩ := List.pairwise_cons.mp h'.1
      have key : c.1 = d.1 := by
        rcases Nat.lt_trichotomy c.1 d.1 with hlt | heq | hlt
        · have := same c.1
          rw [lookupKey_of_lt (m := d :: ds) (by
            intro e he
            rcases List.mem_cons.mp he with rfl | he
            · exact hlt
            · exact lt_trans hlt (hd e he))] at this
          simp [lookupKey] at this
        · exact heq
        · have := same d.1
          rw [lookupKey_of_lt (m := c :: cs) (by
            intro e he
            rcases List.mem_cons.mp he with rfl | he
            · exact hlt
            · exact lt_trans hlt (hc e he))] at this
          simp [lookupKey] at this
      have hv : c.2 = d.2 := by
        have := same c.1
        simpa [lookupKey, key] using this
      have hcd : c = d := Prod.ext key hv
      subst hcd
      congr 1
      refine ih ⟨hcs, fun e he => h.2 e (by simp [he])⟩ ⟨hds, fun e he => h'.2 e (by simp [he])⟩ fun a => ?_
      by_cases ha : c.1 = a
      · subst ha
        rw [lookupKey_of_lt hc, lookupKey_of_lt hd]
      · have := same a
        simpa [lookupKey, ha] using this

/-! ### Stores in RAM -/

theorem ramWrite_wf (n : Nat) {m : Memory} (h : m.wf) (o : Nat) (bs : List Byte) :
    (ramWrite n m o bs).wf := by
  induction bs generalizing m o with
  | nil => exact h
  | cons b bs ih =>
    unfold ramWrite
    split
    · exact ih (Memory.wf_set h _ b) _
    · exact ih h _

theorem ramWrite_bound {n : Nat} {m : Memory} (h : ∀ c ∈ m, ramBase ≤ c.1 ∧ c.1 < ramBase + n)
    (o : Nat) (bs : List Byte) :
    ∀ c ∈ ramWrite n m o bs, ramBase ≤ c.1 ∧ c.1 < ramBase + n := by
  induction bs generalizing m o with
  | nil => exact h
  | cons b bs ih =>
    unfold ramWrite
    split
    · refine ih (fun c hc => ?_) _
      rcases Memory.mem_set hc with rfl | hc
      · simp only; omega
      · exact h c hc
    · exact ih h _

/-- The bytes of RAM after a store: inside the array and the stored range the stored byte, elsewhere
the byte from before. -/
theorem ramWrite_get {n : Nat} {m : Memory} (h : m.wf) (o : Nat) (bs : List Byte) (p : Nat) :
    (ramWrite n m o bs).get (ramBase + p) =
      if o ≤ p ∧ p < n then (bs[p - o]?).getD (m.get (ramBase + p)) else m.get (ramBase + p) := by
  induction bs generalizing m o with
  | nil => simp [ramWrite]
  | cons b bs ih =>
    unfold ramWrite
    by_cases ho : o < n
    · rw [if_pos ho, ih (Memory.wf_set h _ b), Memory.get_set m h]
      by_cases hp : p = o
      · subst hp; simp [ho, show ¬ p + 1 ≤ p by omega]
      · by_cases hlt : o ≤ p
        · have hidx : p - o = p - (o + 1) + 1 := by omega
          simp [hp, hlt, show o + 1 ≤ p by omega, hidx]
        · simp [hp, hlt, show ¬ o + 1 ≤ p by omega]
    · rw [if_neg ho, ih h]
      by_cases hp : o ≤ p ∧ p < n
      · omega
      · rw [if_neg hp, if_neg (by omega)]

end Sys2Proof.Laws
end

