-- ==== Sys2Proof/Laws/State.lean ====
section
/-! SUPPORT. What each update of the state leaves in each field, so that no proof unfolds a record
update. -/

namespace Sys2Proof.Laws

open Sys2Proof Machine

/-! ### A register write -/

@[simp] theorem setReg_cfg (s : State) (r : Reg) (v : Word) : (s.setReg r v).cfg = s.cfg := rfl
@[simp] theorem setReg_regs (s : State) (r : Reg) (v : Word) :
    (s.setReg r v).regs = s.regs.set r.val v := rfl
@[simp] theorem setReg_flags (s : State) (r : Reg) (v : Word) :
    (s.setReg r v).flags = s.flags := rfl
@[simp] theorem setReg_rom (s : State) (r : Reg) (v : Word) : (s.setReg r v).rom = s.rom := rfl
@[simp] theorem setReg_ram (s : State) (r : Reg) (v : Word) : (s.setReg r v).ram = s.ram := rfl
@[simp] theorem setReg_icache (s : State) (r : Reg) (v : Word) :
    (s.setReg r v).icache = s.icache := rfl
@[simp] theorem setReg_vecTick (s : State) (r : Reg) (v : Word) :
    (s.setReg r v).vecTick = s.vecTick := rfl
@[simp] theorem setReg_vecDma (s : State) (r : Reg) (v : Word) :
    (s.setReg r v).vecDma = s.vecDma := rfl
@[simp] theorem setReg_tickCount (s : State) (r : Reg) (v : Word) :
    (s.setReg r v).tickCount = s.tickCount := rfl
@[simp] theorem setReg_tickPending (s : State) (r : Reg) (v : Word) :
    (s.setReg r v).tickPending = s.tickPending := rfl
@[simp] theorem setReg_dmaPending (s : State) (r : Reg) (v : Word) :
    (s.setReg r v).dmaPending = s.dmaPending := rfl
@[simp] theorem setReg_excActive (s : State) (r : Reg) (v : Word) :
    (s.setReg r v).excActive = s.excActive := rfl
@[simp] theorem setReg_dmaChid (s : State) (r : Reg) (v : Word) :
    (s.setReg r v).dmaChid = s.dmaChid := rfl
@[simp] theorem setReg_dmaBase (s : State) (r : Reg) (v : Word) :
    (s.setReg r v).dmaBase = s.dmaBase := rfl
@[simp] theorem setReg_dmaCurDesc (s : State) (r : Reg) (v : Word) :
    (s.setReg r v).dmaCurDesc = s.dmaCurDesc := rfl
@[simp] theorem setReg_readHandlers (s : State) (r : Reg) (v : Word) :
    (s.setReg r v).readHandlers = s.readHandlers := rfl
@[simp] theorem setReg_writeHandlers (s : State) (r : Reg) (v : Word) :
    (s.setReg r v).writeHandlers = s.writeHandlers := rfl
@[simp] theorem setReg_env (s : State) (r : Reg) (v : Word) : (s.setReg r v).env = s.env := rfl
@[simp] theorem setReg_envCount (s : State) (r : Reg) (v : Word) :
    (s.setReg r v).envCount = s.envCount := rfl
@[simp] theorem setReg_trace (s : State) (r : Reg) (v : Word) :
    (s.setReg r v).trace = s.trace := rfl

/-! ### A flag write -/

@[simp] theorem setFlags_cfg (s : State) (f : Flags) : (s.setFlags f).cfg = s.cfg := rfl
@[simp] theorem setFlags_regs (s : State) (f : Flags) : (s.setFlags f).regs = s.regs := rfl
@[simp] theorem setFlags_flags (s : State) (f : Flags) : (s.setFlags f).flags = f := rfl
@[simp] theorem setFlags_rom (s : State) (f : Flags) : (s.setFlags f).rom = s.rom := rfl
@[simp] theorem setFlags_ram (s : State) (f : Flags) : (s.setFlags f).ram = s.ram := rfl
@[simp] theorem setFlags_icache (s : State) (f : Flags) : (s.setFlags f).icache = s.icache := rfl
@[simp] theorem setFlags_vecTick (s : State) (f : Flags) : (s.setFlags f).vecTick = s.vecTick := rfl
@[simp] theorem setFlags_vecDma (s : State) (f : Flags) : (s.setFlags f).vecDma = s.vecDma := rfl
@[simp] theorem setFlags_tickCount (s : State) (f : Flags) :
    (s.setFlags f).tickCount = s.tickCount := rfl
@[simp] theorem setFlags_tickPending (s : State) (f : Flags) :
    (s.setFlags f).tickPending = s.tickPending := rfl
@[simp] theorem setFlags_dmaPending (s : State) (f : Flags) :
    (s.setFlags f).dmaPending = s.dmaPending := rfl
@[simp] theorem setFlags_excActive (s : State) (f : Flags) :
    (s.setFlags f).excActive = s.excActive := rfl
@[simp] theorem setFlags_dmaChid (s : State) (f : Flags) : (s.setFlags f).dmaChid = s.dmaChid := rfl
@[simp] theorem setFlags_dmaBase (s : State) (f : Flags) : (s.setFlags f).dmaBase = s.dmaBase := rfl
@[simp] theorem setFlags_dmaCurDesc (s : State) (f : Flags) :
    (s.setFlags f).dmaCurDesc = s.dmaCurDesc := rfl
@[simp] theorem setFlags_readHandlers (s : State) (f : Flags) :
    (s.setFlags f).readHandlers = s.readHandlers := rfl
@[simp] theorem setFlags_writeHandlers (s : State) (f : Flags) :
    (s.setFlags f).writeHandlers = s.writeHandlers := rfl
@[simp] theorem setFlags_env (s : State) (f : Flags) : (s.setFlags f).env = s.env := rfl
@[simp] theorem setFlags_envCount (s : State) (f : Flags) :
    (s.setFlags f).envCount = s.envCount := rfl
@[simp] theorem setFlags_trace (s : State) (f : Flags) : (s.setFlags f).trace = s.trace := rfl

/-! ### An output -/

@[simp] theorem emit_cfg (s : State) (e : Event) : (s.emit e).cfg = s.cfg := rfl
@[simp] theorem emit_regs (s : State) (e : Event) : (s.emit e).regs = s.regs := rfl
@[simp] theorem emit_flags (s : State) (e : Event) : (s.emit e).flags = s.flags := rfl
@[simp] theorem emit_rom (s : State) (e : Event) : (s.emit e).rom = s.rom := rfl
@[simp] theorem emit_ram (s : State) (e : Event) : (s.emit e).ram = s.ram := rfl
@[simp] theorem emit_icache (s : State) (e : Event) : (s.emit e).icache = s.icache := rfl
@[simp] theorem emit_vecTick (s : State) (e : Event) : (s.emit e).vecTick = s.vecTick := rfl
@[simp] theorem emit_vecDma (s : State) (e : Event) : (s.emit e).vecDma = s.vecDma := rfl
@[simp] theorem emit_tickCount (s : State) (e : Event) : (s.emit e).tickCount = s.tickCount := rfl
@[simp] theorem emit_tickPending (s : State) (e : Event) :
    (s.emit e).tickPending = s.tickPending := rfl
@[simp] theorem emit_dmaPending (s : State) (e : Event) :
    (s.emit e).dmaPending = s.dmaPending := rfl
@[simp] theorem emit_excActive (s : State) (e : Event) : (s.emit e).excActive = s.excActive := rfl
@[simp] theorem emit_dmaChid (s : State) (e : Event) : (s.emit e).dmaChid = s.dmaChid := rfl
@[simp] theorem emit_dmaBase (s : State) (e : Event) : (s.emit e).dmaBase = s.dmaBase := rfl
@[simp] theorem emit_dmaCurDesc (s : State) (e : Event) :
    (s.emit e).dmaCurDesc = s.dmaCurDesc := rfl
@[simp] theorem emit_readHandlers (s : State) (e : Event) :
    (s.emit e).readHandlers = s.readHandlers := rfl
@[simp] theorem emit_writeHandlers (s : State) (e : Event) :
    (s.emit e).writeHandlers = s.writeHandlers := rfl
@[simp] theorem emit_env (s : State) (e : Event) : (s.emit e).env = s.env := rfl
@[simp] theorem emit_envCount (s : State) (e : Event) : (s.emit e).envCount = s.envCount := rfl
@[simp] theorem emit_trace (s : State) (e : Event) : (s.emit e).trace = e :: s.trace := rfl

/-! ### The branch primitive -/

@[simp] theorem branch_cfg (s : State) (a : Word) : (branch a s).cfg = s.cfg := rfl
@[simp] theorem branch_regs (s : State) (a : Word) :
    (branch a s).regs = s.regs.set pc.val ((a &&& 0xFFFFFFFE) + pipe) := rfl
@[simp] theorem branch_flags (s : State) (a : Word) : (branch a s).flags = s.flags := rfl
@[simp] theorem branch_rom (s : State) (a : Word) : (branch a s).rom = s.rom := rfl
@[simp] theorem branch_ram (s : State) (a : Word) : (branch a s).ram = s.ram := rfl
@[simp] theorem branch_icache (s : State) (a : Word) : (branch a s).icache = s.icache := rfl
@[simp] theorem branch_vecTick (s : State) (a : Word) : (branch a s).vecTick = s.vecTick := rfl
@[simp] theorem branch_vecDma (s : State) (a : Word) : (branch a s).vecDma = s.vecDma := rfl
@[simp] theorem branch_tickCount (s : State) (a : Word) :
    (branch a s).tickCount = s.tickCount := rfl
@[simp] theorem branch_tickPending (s : State) (a : Word) :
    (branch a s).tickPending = s.tickPending := rfl
@[simp] theorem branch_dmaPending (s : State) (a : Word) :
    (branch a s).dmaPending = s.dmaPending := rfl
@[simp] theorem branch_excActive (s : State) (a : Word) :
    (branch a s).excActive = s.excActive := rfl
@[simp] theorem branch_dmaChid (s : State) (a : Word) : (branch a s).dmaChid = s.dmaChid := rfl
@[simp] theorem branch_dmaBase (s : State) (a : Word) : (branch a s).dmaBase = s.dmaBase := rfl
@[simp] theorem branch_dmaCurDesc (s : State) (a : Word) :
    (branch a s).dmaCurDesc = s.dmaCurDesc := rfl
@[simp] theorem branch_readHandlers (s : State) (a : Word) :
    (branch a s).readHandlers = s.readHandlers := rfl
@[simp] theorem branch_writeHandlers (s : State) (a : Word) :
    (branch a s).writeHandlers = s.writeHandlers := rfl
@[simp] theorem branch_env (s : State) (a : Word) : (branch a s).env = s.env := rfl
@[simp] theorem branch_envCount (s : State) (a : Word) : (branch a s).envCount = s.envCount := rfl
@[simp] theorem branch_trace (s : State) (a : Word) : (branch a s).trace = s.trace := rfl

/-! ### The DMA completion signal -/

@[simp] theorem signalDma_cfg (s : State) : (signalDma s).cfg = s.cfg := rfl
@[simp] theorem signalDma_regs (s : State) : (signalDma s).regs = s.regs := rfl
@[simp] theorem signalDma_flags (s : State) : (signalDma s).flags = s.flags := rfl
@[simp] theorem signalDma_rom (s : State) : (signalDma s).rom = s.rom := rfl
@[simp] theorem signalDma_ram (s : State) : (signalDma s).ram = s.ram := rfl
@[simp] theorem signalDma_icache (s : State) : (signalDma s).icache = s.icache := rfl
@[simp] theorem signalDma_vecTick (s : State) : (signalDma s).vecTick = s.vecTick := rfl
@[simp] theorem signalDma_vecDma (s : State) : (signalDma s).vecDma = s.vecDma := rfl
@[simp] theorem signalDma_tickCount (s : State) : (signalDma s).tickCount = s.tickCount := rfl
@[simp] theorem signalDma_tickPending (s : State) : (signalDma s).tickPending = s.tickPending := rfl
@[simp] theorem signalDma_dmaPending (s : State) : (signalDma s).dmaPending = true := rfl
@[simp] theorem signalDma_excActive (s : State) : (signalDma s).excActive = s.excActive := rfl
@[simp] theorem signalDma_dmaChid (s : State) : (signalDma s).dmaChid = s.dmaChid := rfl
@[simp] theorem signalDma_dmaBase (s : State) : (signalDma s).dmaBase = s.dmaBase := rfl
@[simp] theorem signalDma_dmaCurDesc (s : State) : (signalDma s).dmaCurDesc = s.dmaCurDesc := rfl
@[simp] theorem signalDma_readHandlers (s : State) :
    (signalDma s).readHandlers = s.readHandlers := rfl
@[simp] theorem signalDma_writeHandlers (s : State) :
    (signalDma s).writeHandlers = s.writeHandlers := rfl
@[simp] theorem signalDma_env (s : State) : (signalDma s).env = s.env := rfl
@[simp] theorem signalDma_envCount (s : State) : (signalDma s).envCount = s.envCount := rfl
@[simp] theorem signalDma_trace (s : State) : (signalDma s).trace = s.trace := rfl

/-! ### A store in RAM -/

@[simp] theorem storeRam_cfg (s : State) (a : Word) (w : Width) (v : Word) :
    (storeRam a w v s).cfg = s.cfg := rfl
@[simp] theorem storeRam_regs (s : State) (a : Word) (w : Width) (v : Word) :
    (storeRam a w v s).regs = s.regs := rfl
@[simp] theorem storeRam_flags (s : State) (a : Word) (w : Width) (v : Word) :
    (storeRam a w v s).flags = s.flags := rfl
@[simp] theorem storeRam_rom (s : State) (a : Word) (w : Width) (v : Word) :
    (storeRam a w v s).rom = s.rom := rfl
@[simp] theorem storeRam_ram (s : State) (a : Word) (w : Width) (v : Word) :
    (storeRam a w v s).ram =
      ramWrite s.cfg.ramSize s.ram (a.toNat - ramBase) (leBytes (widthBytes w) v) := rfl
@[simp] theorem storeRam_icache (s : State) (a : Word) (w : Width) (v : Word) :
    (storeRam a w v s).icache = s.icache := rfl
@[simp] theorem storeRam_vecTick (s : State) (a : Word) (w : Width) (v : Word) :
    (storeRam a w v s).vecTick = s.vecTick := rfl
@[simp] theorem storeRam_vecDma (s : State) (a : Word) (w : Width) (v : Word) :
    (storeRam a w v s).vecDma = s.vecDma := rfl
@[simp] theorem storeRam_tickCount (s : State) (a : Word) (w : Width) (v : Word) :
    (storeRam a w v s).tickCount = s.tickCount := rfl
@[simp] theorem storeRam_tickPending (s : State) (a : Word) (w : Width) (v : Word) :
    (storeRam a w v s).tickPending = s.tickPending := rfl
@[simp] theorem storeRam_dmaPending (s : State) (a : Word) (w : Width) (v : Word) :
    (storeRam a w v s).dmaPending = s.dmaPending := rfl
@[simp] theorem storeRam_excActive (s : State) (a : Word) (w : Width) (v : Word) :
    (storeRam a w v s).excActive = s.excActive := rfl
@[simp] theorem storeRam_dmaChid (s : State) (a : Word) (w : Width) (v : Word) :
    (storeRam a w v s).dmaChid = s.dmaChid := rfl
@[simp] theorem storeRam_dmaBase (s : State) (a : Word) (w : Width) (v : Word) :
    (storeRam a w v s).dmaBase = s.dmaBase := rfl
@[simp] theorem storeRam_dmaCurDesc (s : State) (a : Word) (w : Width) (v : Word) :
    (storeRam a w v s).dmaCurDesc = s.dmaCurDesc := rfl
@[simp] theorem storeRam_readHandlers (s : State) (a : Word) (w : Width) (v : Word) :
    (storeRam a w v s).readHandlers = s.readHandlers := rfl
@[simp] theorem storeRam_writeHandlers (s : State) (a : Word) (w : Width) (v : Word) :
    (storeRam a w v s).writeHandlers = s.writeHandlers := rfl
@[simp] theorem storeRam_env (s : State) (a : Word) (w : Width) (v : Word) :
    (storeRam a w v s).env = s.env := rfl
@[simp] theorem storeRam_envCount (s : State) (a : Word) (w : Width) (v : Word) :
    (storeRam a w v s).envCount = s.envCount := rfl
@[simp] theorem storeRam_trace (s : State) (a : Word) (w : Width) (v : Word) :
    (storeRam a w v s).trace = s.trace := rfl

/-! ### The end of a DMA transfer -/

@[simp] theorem finishTransfer_cfg (s : State) (a : Word) : (finishTransfer a s).cfg = s.cfg := rfl
@[simp] theorem finishTransfer_regs (s : State) (a : Word) :
    (finishTransfer a s).regs = s.regs := rfl
@[simp] theorem finishTransfer_flags (s : State) (a : Word) :
    (finishTransfer a s).flags = s.flags := rfl
@[simp] theorem finishTransfer_rom (s : State) (a : Word) : (finishTransfer a s).rom = s.rom := rfl
@[simp] theorem finishTransfer_ram (s : State) (a : Word) : (finishTransfer a s).ram = s.ram := rfl
@[simp] theorem finishTransfer_icache (s : State) (a : Word) :
    (finishTransfer a s).icache = s.icache := rfl
@[simp] theorem finishTransfer_vecTick (s : State) (a : Word) :
    (finishTransfer a s).vecTick = s.vecTick := rfl
@[simp] theorem finishTransfer_vecDma (s : State) (a : Word) :
    (finishTransfer a s).vecDma = s.vecDma := rfl
@[simp] theorem finishTransfer_tickCount (s : State) (a : Word) :
    (finishTransfer a s).tickCount = s.tickCount := rfl
@[simp] theorem finishTransfer_tickPending (s : State) (a : Word) :
    (finishTransfer a s).tickPending = s.tickPending := rfl
@[simp] theorem finishTransfer_dmaPending (s : State) (a : Word) :
    (finishTransfer a s).dmaPending = true := rfl
@[simp] theorem finishTransfer_excActive (s : State) (a : Word) :
    (finishTransfer a s).excActive = s.excActive := rfl
@[simp] theorem finishTransfer_dmaChid (s : State) (a : Word) :
    (finishTransfer a s).dmaChid = s.dmaChid := rfl
@[simp] theorem finishTransfer_dmaBase (s : State) (a : Word) :
    (finishTransfer a s).dmaBase = s.dmaBase := rfl
@[simp] theorem finishTransfer_dmaCurDesc (s : State) (a : Word) :
    (finishTransfer a s).dmaCurDesc = a := rfl
@[simp] theorem finishTransfer_readHandlers (s : State) (a : Word) :
    (finishTransfer a s).readHandlers = s.readHandlers := rfl
@[simp] theorem finishTransfer_writeHandlers (s : State) (a : Word) :
    (finishTransfer a s).writeHandlers = s.writeHandlers := rfl
@[simp] theorem finishTransfer_env (s : State) (a : Word) : (finishTransfer a s).env = s.env := rfl
@[simp] theorem finishTransfer_envCount (s : State) (a : Word) :
    (finishTransfer a s).envCount = s.envCount := rfl
@[simp] theorem finishTransfer_trace (s : State) (a : Word) :
    (finishTransfer a s).trace = s.trace := rfl

/-! ### The advance of a step -/

@[simp] theorem advance_cfg (s : State) : (advance s).cfg = s.cfg := rfl
@[simp] theorem advance_regs (s : State) :
    (advance s).regs = s.regs.set pc.val (s.reg pc + pipe) := rfl
@[simp] theorem advance_flags (s : State) : (advance s).flags = s.flags := rfl
@[simp] theorem advance_rom (s : State) : (advance s).rom = s.rom := rfl
@[simp] theorem advance_ram (s : State) : (advance s).ram = s.ram := rfl
@[simp] theorem advance_icache (s : State) : (advance s).icache = s.icache := rfl
@[simp] theorem advance_vecTick (s : State) : (advance s).vecTick = s.vecTick := rfl
@[simp] theorem advance_vecDma (s : State) : (advance s).vecDma = s.vecDma := rfl
@[simp] theorem advance_tickCount (s : State) : (advance s).tickCount = s.tickCount := rfl
@[simp] theorem advance_tickPending (s : State) : (advance s).tickPending = s.tickPending := rfl
@[simp] theorem advance_dmaPending (s : State) : (advance s).dmaPending = s.dmaPending := rfl
@[simp] theorem advance_excActive (s : State) : (advance s).excActive = s.excActive := rfl
@[simp] theorem advance_dmaChid (s : State) : (advance s).dmaChid = s.dmaChid := rfl
@[simp] theorem advance_dmaBase (s : State) : (advance s).dmaBase = s.dmaBase := rfl
@[simp] theorem advance_dmaCurDesc (s : State) : (advance s).dmaCurDesc = s.dmaCurDesc := rfl
@[simp] theorem advance_readHandlers (s : State) : (advance s).readHandlers = s.readHandlers := rfl
@[simp] theorem advance_writeHandlers (s : State) :
    (advance s).writeHandlers = s.writeHandlers := rfl
@[simp] theorem advance_env (s : State) : (advance s).env = s.env := rfl
@[simp] theorem advance_envCount (s : State) : (advance s).envCount = s.envCount := rfl
@[simp] theorem advance_trace (s : State) : (advance s).trace = s.trace := rfl

/-! ### One tick -/

@[simp] theorem countTick_cfg (s : State) : (countTick s).cfg = s.cfg := by
  unfold countTick; split <;> rfl
@[simp] theorem countTick_regs (s : State) : (countTick s).regs = s.regs := by
  unfold countTick; split <;> rfl
@[simp] theorem countTick_flags (s : State) : (countTick s).flags = s.flags := by
  unfold countTick; split <;> rfl
@[simp] theorem countTick_rom (s : State) : (countTick s).rom = s.rom := by
  unfold countTick; split <;> rfl
@[simp] theorem countTick_ram (s : State) : (countTick s).ram = s.ram := by
  unfold countTick; split <;> rfl
@[simp] theorem countTick_icache (s : State) : (countTick s).icache = s.icache := by
  unfold countTick; split <;> rfl
@[simp] theorem countTick_vecTick (s : State) : (countTick s).vecTick = s.vecTick := by
  unfold countTick; split <;> rfl
@[simp] theorem countTick_vecDma (s : State) : (countTick s).vecDma = s.vecDma := by
  unfold countTick; split <;> rfl
@[simp] theorem countTick_tickCount (s : State) :
    (countTick s).tickCount =
      if s.cfg.tickThreshold ≤ s.tickCount + 1 then 0 else s.tickCount + 1 := by
  unfold countTick; split <;> rfl
@[simp] theorem countTick_tickPending (s : State) :
    (countTick s).tickPending =
      if s.cfg.tickThreshold ≤ s.tickCount + 1 then true else s.tickPending := by
  unfold countTick; split <;> rfl
@[simp] theorem countTick_dmaPending (s : State) : (countTick s).dmaPending = s.dmaPending := by
  unfold countTick; split <;> rfl
@[simp] theorem countTick_excActive (s : State) : (countTick s).excActive = s.excActive := by
  unfold countTick; split <;> rfl
@[simp] theorem countTick_dmaChid (s : State) : (countTick s).dmaChid = s.dmaChid := by
  unfold countTick; split <;> rfl
@[simp] theorem countTick_dmaBase (s : State) : (countTick s).dmaBase = s.dmaBase := by
  unfold countTick; split <;> rfl
@[simp] theorem countTick_dmaCurDesc (s : State) : (countTick s).dmaCurDesc = s.dmaCurDesc := by
  unfold countTick; split <;> rfl
@[simp] theorem countTick_readHandlers (s : State) :
    (countTick s).readHandlers = s.readHandlers := by
  unfold countTick; split <;> rfl
@[simp] theorem countTick_writeHandlers (s : State) :
    (countTick s).writeHandlers = s.writeHandlers := by
  unfold countTick; split <;> rfl
@[simp] theorem countTick_env (s : State) : (countTick s).env = s.env := by
  unfold countTick; split <;> rfl
@[simp] theorem countTick_envCount (s : State) : (countTick s).envCount = s.envCount := by
  unfold countTick; split <;> rfl
@[simp] theorem countTick_trace (s : State) : (countTick s).trace = s.trace := by
  unfold countTick; split <;> rfl

/-! ### The end of a step -/

@[simp] theorem retire_cfg (s : State) (e : Event) : (retire e s).cfg = s.cfg := by
  simp [retire]
@[simp] theorem retire_regs (s : State) (e : Event) : (retire e s).regs = s.regs := by
  simp [retire]
@[simp] theorem retire_flags (s : State) (e : Event) : (retire e s).flags = s.flags := by
  simp [retire]
@[simp] theorem retire_rom (s : State) (e : Event) : (retire e s).rom = s.rom := by
  simp [retire]
@[simp] theorem retire_ram (s : State) (e : Event) : (retire e s).ram = s.ram := by
  simp [retire]
@[simp] theorem retire_icache (s : State) (e : Event) : (retire e s).icache = s.icache := by
  simp [retire]
@[simp] theorem retire_vecTick (s : State) (e : Event) : (retire e s).vecTick = s.vecTick := by
  simp [retire]
@[simp] theorem retire_vecDma (s : State) (e : Event) : (retire e s).vecDma = s.vecDma := by
  simp [retire]
@[simp] theorem retire_tickCount (s : State) (e : Event) :
    (retire e s).tickCount =
      if s.cfg.tickThreshold ≤ s.tickCount + 1 then 0 else s.tickCount + 1 := by
  simp [retire]
@[simp] theorem retire_tickPending (s : State) (e : Event) :
    (retire e s).tickPending =
      if s.cfg.tickThreshold ≤ s.tickCount + 1 then true else s.tickPending := by
  simp [retire]
@[simp] theorem retire_dmaPending (s : State) (e : Event) :
    (retire e s).dmaPending = s.dmaPending := by
  simp [retire]
@[simp] theorem retire_excActive (s : State) (e : Event) :
    (retire e s).excActive = s.excActive := by
  simp [retire]
@[simp] theorem retire_dmaChid (s : State) (e : Event) : (retire e s).dmaChid = s.dmaChid := by
  simp [retire]
@[simp] theorem retire_dmaBase (s : State) (e : Event) : (retire e s).dmaBase = s.dmaBase := by
  simp [retire]
@[simp] theorem retire_dmaCurDesc (s : State) (e : Event) :
    (retire e s).dmaCurDesc = s.dmaCurDesc := by
  simp [retire]
@[simp] theorem retire_readHandlers (s : State) (e : Event) :
    (retire e s).readHandlers = s.readHandlers := by
  simp [retire]
@[simp] theorem retire_writeHandlers (s : State) (e : Event) :
    (retire e s).writeHandlers = s.writeHandlers := by
  simp [retire]
@[simp] theorem retire_env (s : State) (e : Event) : (retire e s).env = s.env := by
  simp [retire]
@[simp] theorem retire_envCount (s : State) (e : Event) : (retire e s).envCount = s.envCount := by
  simp [retire]
@[simp] theorem retire_trace (s : State) (e : Event) : (retire e s).trace = e :: s.trace := by
  simp [retire]

/-! ### Reading registers -/

/-- Read after write, for registers. -/
theorem reg_setReg (s : State) (r q : Reg) (v : Word) :
    (s.setReg r v).reg q = if q = r then v else s.reg q := by
  unfold State.reg
  rw [setReg_regs, Vector.getElem_set]
  by_cases h : q = r
  · simp [h]
  · simp [h, show r.val ≠ q.val from fun h' => h (Fin.ext h'.symm)]

@[simp] theorem reg_setReg_same (s : State) (r : Reg) (v : Word) : (s.setReg r v).reg r = v := by
  simp [reg_setReg]

theorem reg_setReg_other (s : State) {r q : Reg} (v : Word) (h : q ≠ r) :
    (s.setReg r v).reg q = s.reg q := by
  simp [reg_setReg, h]

@[simp] theorem reg_setFlags (s : State) (f : Flags) (q : Reg) : (s.setFlags f).reg q = s.reg q := rfl

@[simp] theorem reg_emit (s : State) (e : Event) (q : Reg) : (s.emit e).reg q = s.reg q := rfl

@[simp] theorem reg_signalDma (s : State) (q : Reg) : (signalDma s).reg q = s.reg q := rfl

@[simp] theorem reg_storeRam (s : State) (a : Word) (w : Width) (v : Word) (q : Reg) :
    (storeRam a w v s).reg q = s.reg q := rfl

@[simp] theorem reg_finishTransfer (s : State) (a : Word) (q : Reg) :
    (finishTransfer a s).reg q = s.reg q := rfl

@[simp] theorem reg_countTick (s : State) (q : Reg) : (countTick s).reg q = s.reg q := by
  simp [State.reg]

@[simp] theorem reg_retire (s : State) (e : Event) (q : Reg) : (retire e s).reg q = s.reg q := by
  simp [State.reg]

theorem reg_branch (s : State) (a : Word) (q : Reg) :
    (branch a s).reg q = if q = pc then (a &&& 0xFFFFFFFE) + pipe else s.reg q :=
  reg_setReg s pc q _

theorem reg_advance (s : State) (q : Reg) :
    (advance s).reg q = if q = pc then s.reg pc + pipe else s.reg q :=
  reg_setReg s pc q _

/-- Writing a register its own value changes nothing. -/
theorem setReg_self (s : State) (r : Reg) : s.setReg r (s.reg r) = s := by
  cases s
  simp [State.setReg, State.reg]

end Sys2Proof.Laws
end

