-- ==== Sys2Proof/Laws/Ops.lean ====
section
/-! SUPPORT. What each shared operation can do, said once: the routing of an access, and, for
everything that runs through memory, the small changes of state it is made of. -/

namespace Sys2Proof.Laws

open Sys2Proof Machine

/-! ### Regions -/

theorem region_eq_rom {a : Word} : region a = .rom ↔ a.toNat < ramBase := by
  unfold region ramBase mmioBase mmioLimit
  split
  · simp_all
  · split
    · simp_all
    · split <;> simp_all

theorem region_eq_ram {a : Word} : region a = .ram ↔ ramBase ≤ a.toNat ∧ a.toNat < mmioBase := by
  unfold region ramBase mmioBase mmioLimit
  split
  · simp; omega
  · split
    · simp; omega
    · split
      · simp; omega
      · simp; omega

theorem region_eq_mmio {a : Word} : region a = .mmio ↔ mmioBase ≤ a.toNat ∧ a.toNat < mmioLimit := by
  unfold region ramBase mmioBase mmioLimit
  split
  · simp; omega
  · split
    · simp; omega
    · split
      · simp; omega
      · simp; omega

theorem region_eq_unmodelled {a : Word} : region a = .unmodelled ↔ mmioLimit ≤ a.toNat := by
  unfold region ramBase mmioBase mmioLimit
  split
  · simp; omega
  · split
    · simp; omega
    · split
      · simp; omega
      · simp; omega

/-! ### One access -/

theorem access_succ (n : Nat) : access (n + 1) = accessWith (access n) := rfl

theorem access_nestingFuel : access nestingFuel = accessWith (access 65535) := rfl

/-- A read outside MMIO changes nothing. -/
theorem accessWith_read_plain (bus : Bus) {a : Word} (w : Width) (s : State)
    (h : region a ≠ .mmio) : accessWith bus (.read a w) s = .ok (plainRead s a w, s) := by
  unfold accessWith
  cases hr : region a <;> simp_all

theorem accessWith_read_mmio (bus : Bus) {a : Word} (w : Width) (s : State)
    (h : region a = .mmio) :
    accessWith bus (.read a w) s = (mmioRead bus a s).map fun r => (keepLow w r.1, r.2) := by
  simp [accessWith, h]

theorem accessWith_write_rom (bus : Bus) {a : Word} (w : Width) (v : Word) (s : State)
    (h : region a = .rom) : accessWith bus (.write a w v) s = .ok (0, s.emit (.romWrite a)) := by
  simp [accessWith, h]

theorem accessWith_write_ram (bus : Bus) {a : Word} (w : Width) (v : Word) (s : State)
    (h : region a = .ram) : accessWith bus (.write a w v) s = .ok (0, storeRam a w v s) := by
  simp [accessWith, h]

theorem accessWith_write_unmodelled (bus : Bus) {a : Word} (w : Width) (v : Word) (s : State)
    (h : region a = .unmodelled) : accessWith bus (.write a w v) s = .ok (0, s) := by
  simp [accessWith, h]

theorem accessWith_write_mmio (bus : Bus) {a : Word} (w : Width) (v : Word) (s : State)
    (h : region a = .mmio) :
    accessWith bus (.write a w v) s = (mmioWrite bus a (keepLow w v) s).map fun s' => (0, s') := by
  simp [accessWith, h]

theorem memRead_plain {a : Word} (w : Width) (s : State) (h : region a ≠ .mmio) :
    memRead a w s = .ok (plainRead s a w, s) :=
  accessWith_read_plain (access 65535) w s h

theorem memRead_mmio {a : Word} (w : Width) (s : State) (h : region a = .mmio) :
    memRead a w s = (mmioRead (access 65535) a s).map fun r => (keepLow w r.1, r.2) :=
  accessWith_read_mmio (access 65535) w s h

theorem memWrite_rom {a : Word} (w : Width) (v : Word) (s : State) (h : region a = .rom) :
    memWrite a w v s = .ok (s.emit (.romWrite a)) := by
  unfold memWrite busWrite
  rw [access_nestingFuel, accessWith_write_rom _ w v s h]
  rfl

theorem memWrite_ram {a : Word} (w : Width) (v : Word) (s : State) (h : region a = .ram) :
    memWrite a w v s = .ok (storeRam a w v s) := by
  unfold memWrite busWrite
  rw [access_nestingFuel, accessWith_write_ram _ w v s h]
  rfl

theorem memWrite_unmodelled {a : Word} (w : Width) (v : Word) (s : State)
    (h : region a = .unmodelled) : memWrite a w v s = .ok s := by
  unfold memWrite busWrite
  rw [access_nestingFuel, accessWith_write_unmodelled _ w v s h]
  rfl

theorem memWrite_mmio {a : Word} (w : Width) (v : Word) (s : State) (h : region a = .mmio) :
    memWrite a w v s = mmioWrite (access 65535) a (keepLow w v) s := by
  unfold memWrite busWrite
  rw [access_nestingFuel, accessWith_write_mmio _ w v s h]
  cases mmioWrite (access 65535) a (keepLow w v) s <;> rfl

/-! ### The registry -/

theorem mmioRead_stub (bus : Bus) {a : Word} {s : State} {v : Word}
    (h : lookupKey s.cfg.statusStubs a.toNat = some v) : mmioRead bus a s = .ok (v, s) := by
  simp [mmioRead, h]

theorem mmioRead_dmaStatus (bus : Bus) {a : Word} {s : State}
    (h : lookupKey s.cfg.statusStubs a.toNat = none)
    (h' : lookupKey s.readHandlers a.toNat = some .dmaStatus) :
    mmioRead bus a s = .ok (s.cfg.dmaChStatusValue, s) := by
  simp [mmioRead, h, h']

theorem mmioRead_env (bus : Bus) {a : Word} {s : State}
    (h : lookupKey s.cfg.statusStubs a.toNat = none)
    (h' : lookupKey s.readHandlers a.toNat = some .env) :
    mmioRead bus a s = runHandler bus (s.emit (.handlerRead a)) := by
  simp [mmioRead, h, h']

theorem mmioRead_unmapped (bus : Bus) {a : Word} {s : State}
    (h : lookupKey s.cfg.statusStubs a.toNat = none)
    (h' : lookupKey s.readHandlers a.toNat = none) :
    mmioRead bus a s = .ok (0, s.emit (.unmappedRead a)) := by
  simp [mmioRead, h, h']

theorem mmioWrite_chid (bus : Bus) {a : Word} (v : Word) {s : State}
    (h : lookupKey s.writeHandlers a.toNat = some .dmaChid) :
    mmioWrite bus a v s = .ok { s with dmaChid := v } := by
  simp [mmioWrite, h]

theorem mmioWrite_base (bus : Bus) {a : Word} (v : Word) {s : State}
    (h : lookupKey s.writeHandlers a.toNat = some .dmaBase) :
    mmioWrite bus a v s = .ok { s with dmaBase := v } := by
  simp [mmioWrite, h]

theorem mmioWrite_trigger (bus : Bus) {a : Word} (v : Word) {s : State}
    (h : lookupKey s.writeHandlers a.toNat = some .dmaTrigger) :
    mmioWrite bus a v s = dmaTransfer bus s := by
  simp [mmioWrite, h]

theorem mmioWrite_env (bus : Bus) {a : Word} (v : Word) {s : State}
    (h : lookupKey s.writeHandlers a.toNat = some .env) :
    mmioWrite bus a v s = (runHandler bus (s.emit (.handlerWrite a v))).map Prod.snd := by
  simp [mmioWrite, h]

theorem mmioWrite_unmapped (bus : Bus) {a : Word} (v : Word) {s : State}
    (h : lookupKey s.writeHandlers a.toNat = none) :
    mmioWrite bus a v s = .ok (s.emit (.unmappedWrite a)) := by
  simp [mmioWrite, h]

/-! ### The small changes everything is made of -/

/-- One small change of the state, of the kinds that memory accesses and instructions make. -/
inductive Move : State → State → Prop
  | setReg (s : State) (r : Reg) (v : Word) : Move s (s.setReg r v)
  | setFlags (s : State) (f : Flags) : Move s (s.setFlags f)
  | emit (s : State) (e : Event) : Move s (s.emit e)
  | storeRam (s : State) (a : Word) (w : Width) (v : Word) : Move s (storeRam a w v s)
  | reply (s : State) : Move s (nextReply s).2
  | dmaChid (s : State) (v : Word) : Move s { s with dmaChid := v }
  | dmaBase (s : State) (v : Word) : Move s { s with dmaBase := v }
  | dmaCurDesc (s : State) (v : Word) : Move s { s with dmaCurDesc := v }
  | signalDma (s : State) : Move s (signalDma s)

/-- Finitely many small changes. -/
abbrev Moves : State → State → Prop := Relation.ReflTransGen Move

theorem Moves.one {s t : State} (h : Move s t) : Moves s t := .single h

/-- Whatever each small change keeps, a whole run of them keeps. -/
theorem Moves.keeps {P : State → Prop} (hP : ∀ s t, Move s t → P s → P t) {s t : State}
    (h : Moves s t) (hs : P s) : P t := by
  induction h with
  | refl => exact hs
  | tail _ hm ih => exact hP _ _ hm ih

/-- A field that each small change keeps is kept by a run of them. -/
theorem Moves.same {β : Type} {f : State → β} (hf : ∀ s t, Move s t → f t = f s) {s t : State}
    (h : Moves s t) : f t = f s := by
  induction h with
  | refl => rfl
  | tail _ hm ih => rw [hf _ _ hm, ih]

/-- What the small changes never touch. -/
structure Untouched (s t : State) : Prop where
  cfg : t.cfg = s.cfg
  rom : t.rom = s.rom
  icache : t.icache = s.icache
  vecTick : t.vecTick = s.vecTick
  vecDma : t.vecDma = s.vecDma
  tickCount : t.tickCount = s.tickCount
  tickPending : t.tickPending = s.tickPending
  excActive : t.excActive = s.excActive
  readHandlers : t.readHandlers = s.readHandlers
  writeHandlers : t.writeHandlers = s.writeHandlers

theorem Untouched.trans {s t u : State} (h : Untouched s t) (k : Untouched t u) : Untouched s u :=
  ⟨k.1.trans h.1, k.2.trans h.2, k.3.trans h.3, k.4.trans h.4, k.5.trans h.5, k.6.trans h.6,
    k.7.trans h.7, k.8.trans h.8, k.9.trans h.9, k.10.trans h.10⟩

theorem Move.untouched {s t : State} (h : Move s t) : Untouched s t := by
  cases h
  case reply =>
    unfold nextReply
    split <;> exact ⟨rfl, rfl, rfl, rfl, rfl, rfl, rfl, rfl, rfl, rfl⟩
  all_goals exact ⟨rfl, rfl, rfl, rfl, rfl, rfl, rfl, rfl, rfl, rfl⟩

theorem Moves.untouched {s t : State} (h : Moves s t) : Untouched s t := by
  induction h with
  | refl => exact ⟨rfl, rfl, rfl, rfl, rfl, rfl, rfl, rfl, rfl, rfl⟩
  | tail _ hm ih => exact ih.trans hm.untouched

/-- The small changes keep RAM in canonical form and inside its bounds. -/
theorem Move.ram {s t : State} (h : Move s t)
    (hs : Memory.wf s.ram ∧ ∀ c ∈ s.ram, ramBase ≤ c.1 ∧ c.1 < ramBase + s.cfg.ramSize) :
    Memory.wf t.ram ∧ ∀ c ∈ t.ram, ramBase ≤ c.1 ∧ c.1 < ramBase + t.cfg.ramSize := by
  cases h
  case storeRam a w v =>
    exact ⟨ramWrite_wf _ hs.1 _ _, ramWrite_bound hs.2 _ _⟩
  case reply =>
    unfold nextReply
    split <;> exact hs
  all_goals exact hs

theorem Moves.ram {s t : State} (h : Moves s t)
    (hs : Memory.wf s.ram ∧ ∀ c ∈ s.ram, ramBase ≤ c.1 ∧ c.1 < ramBase + s.cfg.ramSize) :
    Memory.wf t.ram ∧ ∀ c ∈ t.ram, ramBase ≤ c.1 ∧ c.1 < ramBase + t.cfg.ramSize :=
  h.keeps (P := fun s => Memory.wf s.ram ∧ ∀ c ∈ s.ram, ramBase ≤ c.1 ∧ c.1 < ramBase + s.cfg.ramSize)
    (fun _ _ hm => hm.ram) hs

/-! ### Peeling computations that may hang -/

theorem bind_eq_ok {α β : Type} {x : Except Fault α} {f : α → Except Fault β} {r : β}
    (h : x.bind f = .ok r) : ∃ a, x = .ok a ∧ f a = .ok r := by
  cases x with
  | error e => cases h
  | ok a => exact ⟨a, rfl, h⟩

theorem map_eq_ok {α β : Type} {x : Except Fault α} {f : α → β} {r : β}
    (h : x.map f = .ok r) : ∃ a, x = .ok a ∧ f a = r := by
  cases x with
  | error e => cases h
  | ok a => exact ⟨a, rfl, by simpa [Except.map] using h⟩

/-- A bus whose accesses only make small changes. -/
def BusMoves (bus : Bus) : Prop :=
  ∀ acc s v t, bus acc s = .ok (v, t) → Moves s t

theorem busRead_moves {bus : Bus} (hb : BusMoves bus) {a : Word} {w : Width} {s : State}
    {r : Word × State} (h : busRead bus a w s = .ok r) : Moves s r.2 := hb _ _ r.1 r.2 h

theorem busWrite_moves {bus : Bus} (hb : BusMoves bus) {a : Word} {w : Width} {v : Word}
    {s t : State} (h : busWrite bus a w v s = .ok t) : Moves s t := by
  obtain ⟨r, hr, rfl⟩ := map_eq_ok h
  exact hb _ _ r.1 r.2 hr

theorem runCall_moves {bus : Bus} (hb : BusMoves bus) {s t : State} {c : EnvCall}
    (h : runCall bus s c = .ok t) : Moves s t := by
  cases c with
  | read a w =>
    obtain ⟨r, hr, rfl⟩ := map_eq_ok h
    exact busRead_moves hb hr
  | write a w v => exact busWrite_moves hb h
  | signalDma => cases h; exact .single (.signalDma s)
  | setReg r v => cases h; exact .single (.setReg s r v)
  | setFlag f b => cases h; exact .single (.setFlags s _)

theorem runCalls_moves {bus : Bus} (hb : BusMoves bus) {cs : List EnvCall} {s t : State}
    (h : runCalls bus cs s = .ok t) : Moves s t := by
  induction cs generalizing s with
  | nil => cases h; exact .refl
  | cons c cs ih =>
    obtain ⟨u, hu, h⟩ := bind_eq_ok h
    exact (runCall_moves hb hu).trans (ih h)

theorem runHandler_moves {bus : Bus} (hb : BusMoves bus) {s : State} {r : Word × State}
    (h : runHandler bus s = .ok r) : Moves s r.2 := by
  obtain ⟨u, hu, rfl⟩ := map_eq_ok h
  exact (Moves.one (.reply s)).trans (runCalls_moves hb hu)

theorem copyBytes_moves {bus : Bus} (hb : BusMoves bus) {n : Nat} {src dst : Word} {s t : State}
    (h : copyBytes bus n src dst s = .ok t) : Moves s t := by
  induction n generalizing src dst s with
  | zero => cases h; exact .refl
  | succ n ih =>
    obtain ⟨r, hr, h⟩ := bind_eq_ok h
    obtain ⟨u, hu, h⟩ := bind_eq_ok h
    exact (busRead_moves hb hr).trans ((busWrite_moves hb hu).trans (ih h))

theorem finishTransfer_moves (next : Word) (s : State) : Moves s (finishTransfer next s) :=
  (Moves.one (.dmaCurDesc s next)).trans (.single (.signalDma _))

theorem dmaTransfer_moves {bus : Bus} (hb : BusMoves bus) {s t : State}
    (h : dmaTransfer bus s = .ok t) : Moves s t := by
  obtain ⟨count, h1, h⟩ := bind_eq_ok h
  obtain ⟨src, h2, h⟩ := bind_eq_ok h
  obtain ⟨dst, h3, h⟩ := bind_eq_ok h
  obtain ⟨next, h4, h⟩ := bind_eq_ok h
  obtain ⟨u, h5, rfl⟩ := map_eq_ok h
  exact (busRead_moves hb h1).trans <| (busRead_moves hb h2).trans <| (busRead_moves hb h3).trans <|
    (busRead_moves hb h4).trans <| (copyBytes_moves hb h5).trans (finishTransfer_moves _ _)

theorem mmioRead_moves {bus : Bus} (hb : BusMoves bus) {a : Word} {s : State} {r : Word × State}
    (h : mmioRead bus a s = .ok r) : Moves s r.2 := by
  unfold mmioRead at h
  split at h
  · cases h; exact .refl
  · split at h
    · cases h; exact .refl
    · exact (Moves.one (.emit s _)).trans (runHandler_moves hb h)
    · cases h; exact .single (.emit s _)

theorem mmioWrite_moves {bus : Bus} (hb : BusMoves bus) {a v : Word} {s t : State}
    (h : mmioWrite bus a v s = .ok t) : Moves s t := by
  unfold mmioWrite at h
  split at h
  · cases h; exact .single (.dmaChid s v)
  · cases h; exact .single (.dmaBase s v)
  · exact dmaTransfer_moves hb h
  · obtain ⟨r, hr, rfl⟩ := map_eq_ok h
    exact (Moves.one (.emit s _)).trans (runHandler_moves hb hr)
  · cases h; exact .single (.emit s _)

theorem accessWith_moves {bus : Bus} (hb : BusMoves bus) : BusMoves (accessWith bus) := by
  intro acc s v t h
  cases acc with
  | read a w =>
    by_cases hr : region a = .mmio
    · rw [accessWith_read_mmio bus w s hr] at h
      obtain ⟨r, hr, h⟩ := map_eq_ok h
      cases h
      exact mmioRead_moves hb hr
    · rw [accessWith_read_plain bus w s hr] at h
      cases h
      exact .refl
  | write a w v =>
    cases hr : region a with
    | rom => rw [accessWith_write_rom bus w v s hr] at h; cases h; exact .single (.emit s _)
    | ram => rw [accessWith_write_ram bus w v s hr] at h; cases h; exact .single (.storeRam s a w v)
    | mmio =>
      rw [accessWith_write_mmio bus w v s hr] at h
      obtain ⟨u, hu, h⟩ := map_eq_ok h
      cases h
      exact mmioWrite_moves hb hu
    | unmodelled => rw [accessWith_write_unmodelled bus w v s hr] at h; cases h; exact .refl

theorem access_moves (n : Nat) : BusMoves (access n) := by
  induction n with
  | zero => intro acc s v t h; cases h
  | succ n ih => exact accessWith_moves ih

theorem memRead_moves {a : Word} {w : Width} {s : State} {r : Word × State}
    (h : memRead a w s = .ok r) : Moves s r.2 := busRead_moves (access_moves _) h

theorem memWrite_moves {a : Word} {w : Width} {v : Word} {s t : State}
    (h : memWrite a w v s = .ok t) : Moves s t := busWrite_moves (access_moves _) h

/-! ### Multi-word transfers, entry and exit -/

theorem branch_moves (a : Word) (s : State) : Moves s (branch a s) := .single (.setReg s pc _)

theorem storeMany_moves {rs : List Reg} {a : Word} {s t : State} (h : storeMany rs a s = .ok t) :
    Moves s t := by
  induction rs generalizing a s with
  | nil => cases h; exact .refl
  | cons r rs ih =>
    obtain ⟨u, hu, h⟩ := bind_eq_ok h
    exact (memWrite_moves hu).trans (ih h)

theorem loadMany_moves {rs : List Reg} {a : Word} {s t : State} (h : loadMany rs a s = .ok t) :
    Moves s t := by
  induction rs generalizing a s with
  | nil => cases h; exact .refl
  | cons r rs ih =>
    obtain ⟨x, hx, h⟩ := bind_eq_ok h
    exact (memRead_moves hx).trans ((Moves.one (.setReg _ r _)).trans (ih h))

theorem pushWord_moves {v : Word} {s t : State} (h : pushWord v s = .ok t) : Moves s t :=
  (Moves.one (.setReg s sp _)).trans (memWrite_moves h)

theorem popWord_moves {s : State} {r : Word × State} (h : popWord s = .ok r) : Moves s r.2 := by
  obtain ⟨x, hx, rfl⟩ := map_eq_ok h
  exact (memRead_moves hx).trans (.single (.setReg _ sp _))

theorem pushRegs_moves {rs : List Reg} {s t : State} (h : pushRegs rs s = .ok t) : Moves s t := by
  induction rs generalizing s with
  | nil => cases h; exact .refl
  | cons r rs ih =>
    obtain ⟨u, hu, h⟩ := bind_eq_ok h
    exact (pushWord_moves hu).trans (ih h)

theorem popRegs_moves {rs : List Reg} {s t : State} (h : popRegs rs s = .ok t) : Moves s t := by
  induction rs generalizing s with
  | nil => cases h; exact .refl
  | cons r rs ih =>
    obtain ⟨x, hx, h⟩ := bind_eq_ok h
    exact (popWord_moves hx).trans ((Moves.one (.setReg _ r _)).trans (ih h))

/-- Entry makes small changes and then marks the exception active. -/
theorem exceptionEntry_moves {vector : Word} {s t : State} (h : exceptionEntry vector s = .ok t) :
    ∃ u, Moves s u ∧ t = { u with excActive := true } := by
  obtain ⟨s1, h1, h⟩ := bind_eq_ok h
  obtain ⟨s2, h2, rfl⟩ := map_eq_ok h
  exact ⟨_, (pushWord_moves h1).trans <| (pushRegs_moves h2).trans <|
    (branch_moves vector s2).trans (.single (.setReg _ lr _)), rfl⟩

/-- Exit makes small changes and then marks no exception active. -/
theorem exceptionExit_moves {s t : State} (h : exceptionExit s = .ok t) :
    ∃ u, Moves s u ∧ t = { u with excActive := false } := by
  obtain ⟨s1, h1, h⟩ := bind_eq_ok h
  obtain ⟨p, h2, h⟩ := bind_eq_ok h
  obtain ⟨w, h3, rfl⟩ := map_eq_ok h
  exact ⟨_, (popRegs_moves h1).trans <| (popWord_moves h2).trans <|
    (Moves.one (.setReg _ pc _)).trans <| (popWord_moves h3).trans (.single (.setFlags _ _)), rfl⟩

end Sys2Proof.Laws
end

