-- ==== Sys2Proof/Laws/Exec.lean ====
section
/-! SUPPORT. What executing an instruction can do: the shared shapes, then every instruction; and the
stages of a step. -/

namespace Sys2Proof.Laws

open Sys2Proof Machine

/-! ### The shapes -/

theorem answer_eq_next {x : Except Fault State} {t : State} (h : answer x = .next t) : x = .ok t := by
  cases x with
  | error e => cases h
  | ok u => cases h; rfl

theorem writeSum_moves {rd : Reg} {x : Sum} {s t : State} (h : writeSum rd x s = .next t) :
    Moves s t := by
  cases h
  exact (Moves.one (.setReg s rd _)).trans (.single (.setFlags _ _))

theorem compareSum_moves {x : Sum} {s t : State} (h : compareSum x s = .next t) : Moves s t := by
  cases h
  exact .single (.setFlags _ _)

theorem writeLogical_moves {rd : Reg} {r : Word} {s t : State} (h : writeLogical rd r s = .next t) :
    Moves s t := by
  cases h
  exact (Moves.one (.setReg s rd _)).trans (.single (.setFlags _ _))

theorem writeShift_moves {rd : Reg} {x : Shifted} {s t : State} (h : writeShift rd x s = .next t) :
    Moves s t := by
  cases h
  exact (Moves.one (.setReg s rd _)).trans (.single (.setFlags _ _))

theorem writeReg_moves {rd : Reg} {v : Word} {s t : State} (h : writeReg rd v s = .next t) :
    Moves s t := by
  cases h
  exact .single (.setReg s rd v)

theorem writeRegOrBranch_moves {rd : Reg} {v : Word} {s t : State}
    (h : writeRegOrBranch rd v s = .next t) : Moves s t := by
  cases h
  split
  · exact branch_moves v s
  · exact .single (.setReg s rd v)

theorem condBranch_moves {c : Cond} {imm8 : BitVec 8} {s t : State}
    (h : condBranch c imm8 s = .next t) : Moves s t := by
  cases h
  split
  · exact branch_moves _ s
  · exact .refl

theorem skipSecondHalf_moves {s t : State} (h : skipSecondHalf s = .next t) : Moves s t := by
  cases h
  exact .single (.setReg s pc _)

theorem loadInto_moves {a : Word} {w : Width} {f : Word → Word} {rt : Reg} {s t : State}
    (h : loadInto a w f rt s = .next t) : Moves s t := by
  obtain ⟨r, hr, rfl⟩ := map_eq_ok (answer_eq_next h)
  exact (memRead_moves hr).trans (.single (.setReg _ rt _))

theorem storeFrom_moves {a : Word} {w : Width} {v : Word} {s t : State}
    (h : storeFrom a w v s = .next t) : Moves s t := memWrite_moves (answer_eq_next h)

theorem execPush_moves {rlist : BitVec 8} {b : Bool} {s t : State}
    (h : execPush rlist b s = .next t) : Moves s t := by
  obtain ⟨u, hu, rfl⟩ := map_eq_ok (answer_eq_next h)
  exact (storeMany_moves hu).trans (.single (.setReg _ sp _))

theorem popPc_moves {b : Bool} {a : Word} {s t : State} (h : popPc b a s = .ok t) : Moves s t := by
  unfold popPc at h
  split at h
  · obtain ⟨x, hx, rfl⟩ := map_eq_ok h
    exact (memRead_moves hx).trans (branch_moves _ _)
  · cases h; exact .refl

theorem execPop_moves {rlist : BitVec 8} {b : Bool} {s t : State}
    (h : execPop rlist b s = .next t) : Moves s t := by
  obtain ⟨u, hu, h⟩ := bind_eq_ok (answer_eq_next h)
  obtain ⟨v, hv, rfl⟩ := map_eq_ok h
  exact (loadMany_moves hu).trans ((popPc_moves hv).trans (.single (.setReg _ sp _)))

theorem execStmia_moves {rn : Reg} {rlist : BitVec 8} {s t : State}
    (h : execStmia rn rlist s = .next t) : Moves s t := by
  obtain ⟨u, hu, rfl⟩ := map_eq_ok (answer_eq_next h)
  exact (storeMany_moves hu).trans (.single (.setReg _ rn _))

theorem execLdmia_moves {rn : Reg} {rlist : BitVec 8} {s t : State}
    (h : execLdmia rn rlist s = .next t) : Moves s t := by
  obtain ⟨u, hu, rfl⟩ := map_eq_ok (answer_eq_next h)
  refine (loadMany_moves hu).trans ?_
  split
  · exact .refl
  · exact .single (.setReg _ rn _)

/-! ### Every instruction -/

/-- An instruction that completes has only made small changes. -/
theorem exec_moves {i : Instr} {s t : State} (h : exec i s = .next t) : Moves s t := by
  cases i <;> simp only [exec, execLslImm, execLsrImm, execAsrImm, execAddReg, execSubReg, execAddImm3,
    execSubImm3, execMovImm8, execCmpImm8, execAddImm8, execSubImm8, execAndReg, execEorReg,
    execLslReg, execLsrReg, execAsrReg, execAdcReg, execSbcReg, execRorReg, execTstReg,
    execNegReg, execCmpReg, execCmnReg, execOrrReg, execMulReg, execBicReg, execMvnReg,
    execAddHi, execCmpHi, execMovHi, execBx, execBlxReg, execLdrLit, execStrReg,
    execStrhReg, execStrbReg, execLdrsbReg, execLdrReg, execLdrhReg, execLdrbReg,
    execLdrshReg, execStrImm5, execLdrImm5, execStrbImm5, execLdrbImm5, execStrhImm5,
    execLdrhImm5, execStrSp, execLdrSp, execAdr, execAddRdSp, execAddSpImm7, execSubSpImm7,
    execSxth, execSxtb, execUxth, execUxtb, execRev, execRev16, execRevsh, execBeq, execBne,
    execBcs, execBcc, execBmi, execBpl, execBvs, execBvc, execBhi, execBls, execBge,
    execBlt, execBgt, execBle, execSvc, execB, execBlPrefix, execBlSuffix, execMrs, execMsr,
    execDsb, execDmb, execIsb] at h
  all_goals first
    | with_reducible exact writeShift_moves h
    | with_reducible exact writeSum_moves h
    | with_reducible exact writeLogical_moves h
    | with_reducible exact compareSum_moves h
    | with_reducible exact writeReg_moves h
    | with_reducible exact writeRegOrBranch_moves h
    | with_reducible exact condBranch_moves h
    | with_reducible exact skipSecondHalf_moves h
    | with_reducible exact loadInto_moves h
    | with_reducible exact storeFrom_moves h
    | with_reducible exact execPush_moves h
    | with_reducible exact execPop_moves h
    | with_reducible exact execStmia_moves h
    | with_reducible exact execLdmia_moves h
    | (cases h; exact .refl)
    | (cases h; exact .single (.setFlags _ _))
    | (cases h; exact branch_moves _ _)
    | (cases h; exact (Moves.one (.setReg _ lr _)).trans (branch_moves _ _))

theorem answer_not_refused (x : Except Fault State) (r : Refusal) : answer x ≠ .refused r := by
  cases x <;> exact fun h => nomatch h

/-- No instruction is refused. -/
theorem exec_not_refused (i : Instr) (s : State) (r : Refusal) : exec i s ≠ .refused r := by
  cases i <;> simp only [exec, execLslImm, execLsrImm, execAsrImm, execAddReg, execSubReg, execAddImm3,
    execSubImm3, execMovImm8, execCmpImm8, execAddImm8, execSubImm8, execAndReg, execEorReg,
    execLslReg, execLsrReg, execAsrReg, execAdcReg, execSbcReg, execRorReg, execTstReg,
    execNegReg, execCmpReg, execCmnReg, execOrrReg, execMulReg, execBicReg, execMvnReg,
    execAddHi, execCmpHi, execMovHi, execBx, execBlxReg, execLdrLit, execStrReg,
    execStrhReg, execStrbReg, execLdrsbReg, execLdrReg, execLdrhReg, execLdrbReg,
    execLdrshReg, execStrImm5, execLdrImm5, execStrbImm5, execLdrbImm5, execStrhImm5,
    execLdrhImm5, execStrSp, execLdrSp, execAdr, execAddRdSp, execAddSpImm7, execSubSpImm7,
    execSxth, execSxtb, execUxth, execUxtb, execRev, execRev16, execRevsh, execBeq, execBne,
    execBcs, execBcc, execBmi, execBpl, execBvs, execBvc, execBhi, execBls, execBge,
    execBlt, execBgt, execBle, execSvc, execB, execBlPrefix, execBlSuffix, execMrs, execMsr,
    execDsb, execDmb, execIsb,
    loadInto, storeFrom, execPush, execPop, execStmia, execLdmia]
  all_goals first
    | with_reducible exact answer_not_refused _ r
    | (intro h; cases h)

/-! ### The stages of a step -/

theorem exitLoop_at_sentinel (n : Nat) {s : State} (h : instrAddr s = sentinel) :
    exitLoop (n + 1) s = (exceptionExit s).bind fun t => exitLoop n (t.emit .exited) := by
  simp [exitLoop, h]

theorem exitLoop_elsewhere (n : Nat) {s : State} (h : instrAddr s ≠ sentinel) :
    exitLoop n s = .ok s := by
  cases n <;> simp [exitLoop, h]

/-- Whatever the small changes and the exception bit keep, the exit loop keeps. -/
theorem exitLoop_keeps {P : State → Prop} (hm : ∀ s t, Move s t → P s → P t)
    (he : ∀ s, P s → P { s with excActive := false }) {n : Nat} {s t : State}
    (h : exitLoop n s = .ok t) (hs : P s) : P t := by
  induction n generalizing s with
  | zero =>
    unfold exitLoop at h
    split at h
    · cases h
    · cases h; exact hs
  | succ n ih =>
    by_cases hsent : instrAddr s = sentinel
    · rw [exitLoop_at_sentinel n hsent] at h
      obtain ⟨u, hu, h⟩ := bind_eq_ok h
      obtain ⟨v, hv, rfl⟩ := exceptionExit_moves hu
      exact ih h (hm _ _ (.emit _ _) (he v (hv.keeps hm hs)))
    · rw [exitLoop_elsewhere _ hsent] at h
      cases h; exact hs

/-- The loop only ends away from the sentinel. -/
theorem exitLoop_not_sentinel {n : Nat} {s t : State} (h : exitLoop n s = .ok t) :
    instrAddr t ≠ sentinel := by
  induction n generalizing s with
  | zero =>
    unfold exitLoop at h
    split at h
    · cases h
    · cases h; assumption
  | succ n ih =>
    by_cases hsent : instrAddr s = sentinel
    · rw [exitLoop_at_sentinel n hsent] at h
      obtain ⟨u, _, h⟩ := bind_eq_ok h
      exact ih h
    · rw [exitLoop_elsewhere _ hsent] at h
      cases h; exact hsent

theorem retireResult_eq_next {i : Instr} {r : Result} {t : State} (h : retireResult i r = .next t) :
    ∃ u, r = .next u ∧ t = retire (.executed i) u := by
  cases r with
  | next u => cases h; exact ⟨u, rfl, rfl⟩
  | fault f => cases h
  | refused r => cases h

/-- What a step that completes did: an exception entry; or exits, then an instruction; or exits, then
nothing for want of an instruction. -/
theorem engineStep_cases {s t : State} (h : engineStep s = .next t) :
    (∃ src, pendingSource s = some src ∧ serviceInterrupt src s = .ok t) ∨
    (∃ u i v, pendingSource s = none ∧ exitLoop exitFuel s = .ok u ∧
      fetch u (instrAddr u) = some i ∧ exec i (advance u) = .next v ∧
      t = retire (.executed i) v) ∨
    (∃ u, pendingSource s = none ∧ exitLoop exitFuel s = .ok u ∧
      fetch u (instrAddr u) = none ∧
      t = retire (.unrecognised (instrAddr u)) (advance u)) := by
  unfold engineStep at h
  split at h
  · rename_i src hp
    exact .inl ⟨src, hp, answer_eq_next h⟩
  · rename_i hp
    split at h
    · rename_i u hu
      unfold executeAt at h
      split at h
      · rename_i i hf
        obtain ⟨v, hv, rfl⟩ := retireResult_eq_next h
        exact .inr (.inl ⟨u, i, v, hp, hu, hf, hv, rfl⟩)
      · rename_i hf
        cases h
        exact .inr (.inr ⟨u, hp, hu, hf, rfl⟩)
    · cases h

/-- What servicing an interrupt did. -/
theorem serviceInterrupt_cases {src : Source} {s t : State} (h : serviceInterrupt src s = .ok t) :
    ∃ u vector s', exceptionEntry vector s' = .ok u ∧ t = u.emit (.entered src) ∧
      ((src = .dma ∧ vector = s.vecDma ∧ s' = { s with dmaPending := false }) ∨
       (src = .tick ∧ vector = s.vecTick ∧ s' = { s with tickPending := false })) := by
  cases src with
  | dma =>
    obtain ⟨u, hu, rfl⟩ := map_eq_ok h
    exact ⟨u, _, _, hu, rfl, .inl ⟨rfl, rfl, rfl⟩⟩
  | tick =>
    obtain ⟨u, hu, rfl⟩ := map_eq_ok h
    exact ⟨u, _, _, hu, rfl, .inr ⟨rfl, rfl, rfl⟩⟩

end Sys2Proof.Laws
end

