-- ==== Sys2Proof/Laws/PerInstr.lean ====
section
/-! SUPPORT. Statements made per instruction. The family `EncodingRoundTrip`: decoding the halfwords
of a well-formed instruction gives it back, whatever admitted halfword follows. First, for each layout
of fields, one lemma: the placed fields are read back, and the bits above them are the fixed ones. -/

namespace Sys2Proof.Laws

open Sys2Proof

theorem fields_Low0_Low3_Imm56_top11 {p : Nat} (hp : p < 65536 ∧ p % 2048 = 0) (a : Reg) (b : Reg) (c : BitVec 5) (ha : a.val < 8) (hb : b.val < 8) {x : Half}
    (hx : x = asHalf (p + putReg a 0 + putReg b 3 + putImm c 6)) :
    x.toNat / 2 ^ 11 * 2 ^ 11 = p ∧ lowField x 0 = a ∧ lowField x 3 = b ∧ x.extractLsb' 6 5 = c := by
  have hc := c.isLt
  replace hx : x.toNat = p + putReg a 0 + putReg b 3 + putImm c 6 := by rw [hx, asHalf_toNat (by simp only [putImm, putReg]; omega)]
  simp only [putImm, putReg] at hx
  refine ⟨by simp; omega, ?_, ?_, ?_⟩
  · exact Fin.ext (by simp [lowField]; omega)
  · exact Fin.ext (by simp [lowField]; omega)
  · exact BitVec.eq_of_toNat_eq (by simp [Nat.shiftRight_eq_div_pow]; omega)

theorem fields_Low0_Low3_Low6_top9 {p : Nat} (hp : p < 65536 ∧ p % 512 = 0) (a : Reg) (b : Reg) (c : Reg) (ha : a.val < 8) (hb : b.val < 8) (hc : c.val < 8) {x : Half}
    (hx : x = asHalf (p + putReg a 0 + putReg b 3 + putReg c 6)) :
    x.toNat / 2 ^ 9 * 2 ^ 9 = p ∧ lowField x 0 = a ∧ lowField x 3 = b ∧ lowField x 6 = c := by
  replace hx : x.toNat = p + putReg a 0 + putReg b 3 + putReg c 6 := by rw [hx, asHalf_toNat (by simp only [putReg]; omega)]
  simp only [putReg] at hx
  refine ⟨by simp; omega, ?_, ?_, ?_⟩
  · exact Fin.ext (by simp [lowField]; omega)
  · exact Fin.ext (by simp [lowField]; omega)
  · exact Fin.ext (by simp [lowField]; omega)

theorem fields_Low0_Low3_Imm36_top9 {p : Nat} (hp : p < 65536 ∧ p % 512 = 0) (a : Reg) (b : Reg) (c : BitVec 3) (ha : a.val < 8) (hb : b.val < 8) {x : Half}
    (hx : x = asHalf (p + putReg a 0 + putReg b 3 + putImm c 6)) :
    x.toNat / 2 ^ 9 * 2 ^ 9 = p ∧ lowField x 0 = a ∧ lowField x 3 = b ∧ x.extractLsb' 6 3 = c := by
  have hc := c.isLt
  replace hx : x.toNat = p + putReg a 0 + putReg b 3 + putImm c 6 := by rw [hx, asHalf_toNat (by simp only [putImm, putReg]; omega)]
  simp only [putImm, putReg] at hx
  refine ⟨by simp; omega, ?_, ?_, ?_⟩
  · exact Fin.ext (by simp [lowField]; omega)
  · exact Fin.ext (by simp [lowField]; omega)
  · exact BitVec.eq_of_toNat_eq (by simp [Nat.shiftRight_eq_div_pow]; omega)

theorem fields_Low8_Imm80_top11 {p : Nat} (hp : p < 65536 ∧ p % 2048 = 0) (a : Reg) (b : BitVec 8) (ha : a.val < 8) {x : Half}
    (hx : x = asHalf (p + putReg a 8 + putImm b 0)) :
    x.toNat / 2 ^ 11 * 2 ^ 11 = p ∧ lowField x 8 = a ∧ x.extractLsb' 0 8 = b := by
  have hb := b.isLt
  replace hx : x.toNat = p + putReg a 8 + putImm b 0 := by rw [hx, asHalf_toNat (by simp only [putImm, putReg]; omega)]
  simp only [putImm, putReg] at hx
  refine ⟨by simp; omega, ?_, ?_⟩
  · exact Fin.ext (by simp [lowField]; omega)
  · exact BitVec.eq_of_toNat_eq (by simp; omega)

theorem fields_Low0_Low3_top6 {p : Nat} (hp : p < 65536 ∧ p % 64 = 0) (a : Reg) (b : Reg) (ha : a.val < 8) (hb : b.val < 8) {x : Half}
    (hx : x = asHalf (p + putReg a 0 + putReg b 3)) :
    x.toNat / 2 ^ 6 * 2 ^ 6 = p ∧ lowField x 0 = a ∧ lowField x 3 = b := by
  replace hx : x.toNat = p + putReg a 0 + putReg b 3 := by rw [hx, asHalf_toNat (by simp only [putReg]; omega)]
  simp only [putReg] at hx
  refine ⟨by simp; omega, ?_, ?_⟩
  · exact Fin.ext (by simp [lowField]; omega)
  · exact Fin.ext (by simp [lowField]; omega)

theorem fields_Split0_Reg3_top8 {p : Nat} (hp : p < 65536 ∧ p % 256 = 0) (a : Reg) (b : Reg) {x : Half}
    (hx : x = asHalf (p + putSplit a + putReg b 3)) :
    x.toNat / 2 ^ 8 * 2 ^ 8 = p ∧ splitField x = a ∧ regField x 3 = b := by
  have ha := a.isLt
  have hb := b.isLt
  replace hx : x.toNat = p + putSplit a + putReg b 3 := by rw [hx, asHalf_toNat (by simp only [putReg, putSplit]; omega)]
  simp only [putReg, putSplit] at hx
  refine ⟨by simp; omega, ?_, ?_⟩
  · exact Fin.ext (by simp [splitField]; omega)
  · exact Fin.ext (by simp [regField]; omega)

theorem fields_Reg3_top7 {p : Nat} (hp : p < 65536 ∧ p % 128 = 0) (a : Reg) {x : Half}
    (hx : x = asHalf (p + putReg a 3)) :
    x.toNat / 2 ^ 7 * 2 ^ 7 = p ∧ regField x 3 = a := by
  have ha := a.isLt
  replace hx : x.toNat = p + putReg a 3 := by rw [hx, asHalf_toNat (by simp only [putReg]; omega)]
  simp only [putReg] at hx
  refine ⟨by simp; omega, ?_⟩
  · exact Fin.ext (by simp [regField]; omega)

theorem fields_Imm70_top7 {p : Nat} (hp : p < 65536 ∧ p % 128 = 0) (a : BitVec 7) {x : Half}
    (hx : x = asHalf (p + putImm a 0)) :
    x.toNat / 2 ^ 7 * 2 ^ 7 = p ∧ x.extractLsb' 0 7 = a := by
  have ha := a.isLt
  replace hx : x.toNat = p + putImm a 0 := by rw [hx, asHalf_toNat (by simp only [putImm]; omega)]
  simp only [putImm] at hx
  refine ⟨by simp; omega, ?_⟩
  · exact BitVec.eq_of_toNat_eq (by simp; omega)

theorem fields_Imm80_Bit8_top9 {p : Nat} (hp : p < 65536 ∧ p % 512 = 0) (a : BitVec 8) (b : Bool) {x : Half}
    (hx : x = asHalf (p + putImm a 0 + putBit b 8)) :
    x.toNat / 2 ^ 9 * 2 ^ 9 = p ∧ x.extractLsb' 0 8 = a ∧ x.getLsbD 8 = b := by
  have ha := a.isLt
  have hb := Bool.toNat_lt b
  replace hx : x.toNat = p + putImm a 0 + putBit b 8 := by rw [hx, asHalf_toNat (by simp only [putBit, putImm]; omega)]
  simp only [putBit, putImm] at hx
  refine ⟨by simp; omega, ?_, ?_⟩
  · exact BitVec.eq_of_toNat_eq (by simp; omega)
  · cases b <;> simp [BitVec.getLsbD, Nat.testBit_eq_decide_div_mod_eq] at hx ⊢ <;> omega

theorem fields_Imm80_top8 {p : Nat} (hp : p < 65536 ∧ p % 256 = 0) (a : BitVec 8) {x : Half}
    (hx : x = asHalf (p + putImm a 0)) :
    x.toNat / 2 ^ 8 * 2 ^ 8 = p ∧ x.extractLsb' 0 8 = a := by
  have ha := a.isLt
  replace hx : x.toNat = p + putImm a 0 := by rw [hx, asHalf_toNat (by simp only [putImm]; omega)]
  simp only [putImm] at hx
  refine ⟨by simp; omega, ?_⟩
  · exact BitVec.eq_of_toNat_eq (by simp; omega)

theorem fields_Imm110_top11 {p : Nat} (hp : p < 65536 ∧ p % 2048 = 0) (a : BitVec 11) {x : Half}
    (hx : x = asHalf (p + putImm a 0)) :
    x.toNat / 2 ^ 11 * 2 ^ 11 = p ∧ x.extractLsb' 0 11 = a := by
  have ha := a.isLt
  replace hx : x.toNat = p + putImm a 0 := by rw [hx, asHalf_toNat (by simp only [putImm]; omega)]
  simp only [putImm] at hx
  refine ⟨by simp; omega, ?_⟩
  · exact BitVec.eq_of_toNat_eq (by simp; omega)

theorem fields_Reg8_Imm80_top12 {p : Nat} (hp : p < 65536 ∧ p % 4096 = 0) (a : Reg) (b : BitVec 8) {x : Half}
    (hx : x = asHalf (p + putReg a 8 + putImm b 0)) :
    x.toNat / 2 ^ 12 * 2 ^ 12 = p ∧ regField x 8 = a ∧ x.extractLsb' 0 8 = b := by
  have ha := a.isLt
  have hb := b.isLt
  replace hx : x.toNat = p + putReg a 8 + putImm b 0 := by rw [hx, asHalf_toNat (by simp only [putImm, putReg]; omega)]
  simp only [putImm, putReg] at hx
  refine ⟨by simp; omega, ?_, ?_⟩
  · exact Fin.ext (by simp [regField]; omega)
  · exact BitVec.eq_of_toNat_eq (by simp; omega)

theorem fields_Reg0_top4 {p : Nat} (hp : p < 65536 ∧ p % 16 = 0) (a : Reg) {x : Half}
    (hx : x = asHalf (p + putReg a 0)) :
    x.toNat / 2 ^ 4 * 2 ^ 4 = p ∧ regField x 0 = a := by
  have ha := a.isLt
  replace hx : x.toNat = p + putReg a 0 := by rw [hx, asHalf_toNat (by simp only [putReg]; omega)]
  simp only [putReg] at hx
  refine ⟨by simp; omega, ?_⟩
  · exact Fin.ext (by simp [regField]; omega)

theorem fields_Imm40_top4 {p : Nat} (hp : p < 65536 ∧ p % 16 = 0) (a : BitVec 4) {x : Half}
    (hx : x = asHalf (p + putImm a 0)) :
    x.toNat / 2 ^ 4 * 2 ^ 4 = p ∧ x.extractLsb' 0 4 = a := by
  have ha := a.isLt
  replace hx : x.toNat = p + putImm a 0 := by rw [hx, asHalf_toNat (by simp only [putImm]; omega)]
  simp only [putImm] at hx
  refine ⟨by simp; omega, ?_⟩
  · exact BitVec.eq_of_toNat_eq (by simp; omega)

/-- Decoding what `encode` writes gives the instruction back: the first halfword, with the second one
or, for a one-halfword instruction, with any successor its encoding admits. -/
def EncodingRoundTrip.Statement (i : Instr) : Prop :=
  wellFormed i = true → ∀ next, admitsNext i next = true →
    ∃ hw rest, encode i = hw :: rest ∧ decode hw (rest.headD next) = .ok i

theorem EncodingRoundTrip.lslImm (rd : Reg) (rm : Reg) (imm5 : BitVec 5) :
    Statement (.lslImm rd rm imm5) := by
  intro hwf next _
  refine ⟨_, _, rfl, ?_⟩
  have low : rd.val < 8 ∧ rm.val < 8 := by
    simpa [wellFormed, lowOperands, isLow] using hwf
  obtain ⟨top, e0, e1, e2⟩ := fields_Low0_Low3_Imm56_top11 (p := 0x0000) (by decide) rd rm imm5 low.1 low.2 rfl
  rw [decode_of_row (r := ⟨0xF800, 0x0000, none,
    fun hw _ => .lslImm (lowField hw 0) (lowField hw 3) (hw.extractLsb' 6 5)⟩)
    (by simp [opcodeTable, rowsF1toF3])
    (rowHits_one (highMask_match _ 0x0000 11 (by decide) top))]
  simp only [e0, e1, e2]

theorem EncodingRoundTrip.lsrImm (rd : Reg) (rm : Reg) (imm5 : BitVec 5) :
    Statement (.lsrImm rd rm imm5) := by
  intro hwf next _
  refine ⟨_, _, rfl, ?_⟩
  have low : rd.val < 8 ∧ rm.val < 8 := by
    simpa [wellFormed, lowOperands, isLow] using hwf
  obtain ⟨top, e0, e1, e2⟩ := fields_Low0_Low3_Imm56_top11 (p := 0x0800) (by decide) rd rm imm5 low.1 low.2 rfl
  rw [decode_of_row (r := ⟨0xF800, 0x0800, none,
    fun hw _ => .lsrImm (lowField hw 0) (lowField hw 3) (hw.extractLsb' 6 5)⟩)
    (by simp [opcodeTable, rowsF1toF3])
    (rowHits_one (highMask_match _ 0x0800 11 (by decide) top))]
  simp only [e0, e1, e2]

theorem EncodingRoundTrip.asrImm (rd : Reg) (rm : Reg) (imm5 : BitVec 5) :
    Statement (.asrImm rd rm imm5) := by
  intro hwf next _
  refine ⟨_, _, rfl, ?_⟩
  have low : rd.val < 8 ∧ rm.val < 8 := by
    simpa [wellFormed, lowOperands, isLow] using hwf
  obtain ⟨top, e0, e1, e2⟩ := fields_Low0_Low3_Imm56_top11 (p := 0x1000) (by decide) rd rm imm5 low.1 low.2 rfl
  rw [decode_of_row (r := ⟨0xF800, 0x1000, none,
    fun hw _ => .asrImm (lowField hw 0) (lowField hw 3) (hw.extractLsb' 6 5)⟩)
    (by simp [opcodeTable, rowsF1toF3])
    (rowHits_one (highMask_match _ 0x1000 11 (by decide) top))]
  simp only [e0, e1, e2]

theorem EncodingRoundTrip.addReg (rd : Reg) (rn : Reg) (rm : Reg) :
    Statement (.addReg rd rn rm) := by
  intro hwf next _
  refine ⟨_, _, rfl, ?_⟩
  have low : rd.val < 8 ∧ rn.val < 8 ∧ rm.val < 8 := by
    simpa [wellFormed, lowOperands, isLow] using hwf
  obtain ⟨top, e0, e1, e2⟩ := fields_Low0_Low3_Low6_top9 (p := 0x1800) (by decide) rd rn rm low.1 low.2.1 low.2.2 rfl
  rw [decode_of_row (r := ⟨0xFE00, 0x1800, none,
    fun hw _ => .addReg (lowField hw 0) (lowField hw 3) (lowField hw 6)⟩)
    (by simp [opcodeTable, rowsF1toF3])
    (rowHits_one (highMask_match _ 0x1800 9 (by decide) top))]
  simp only [e0, e1, e2]

theorem EncodingRoundTrip.subReg (rd : Reg) (rn : Reg) (rm : Reg) :
    Statement (.subReg rd rn rm) := by
  intro hwf next _
  refine ⟨_, _, rfl, ?_⟩
  have low : rd.val < 8 ∧ rn.val < 8 ∧ rm.val < 8 := by
    simpa [wellFormed, lowOperands, isLow] using hwf
  obtain ⟨top, e0, e1, e2⟩ := fields_Low0_Low3_Low6_top9 (p := 0x1A00) (by decide) rd rn rm low.1 low.2.1 low.2.2 rfl
  rw [decode_of_row (r := ⟨0xFE00, 0x1A00, none,
    fun hw _ => .subReg (lowField hw 0) (lowField hw 3) (lowField hw 6)⟩)
    (by simp [opcodeTable, rowsF1toF3])
    (rowHits_one (highMask_match _ 0x1A00 9 (by decide) top))]
  simp only [e0, e1, e2]

theorem EncodingRoundTrip.addImm3 (rd : Reg) (rn : Reg) (imm3 : BitVec 3) :
    Statement (.addImm3 rd rn imm3) := by
  intro hwf next _
  refine ⟨_, _, rfl, ?_⟩
  have low : rd.val < 8 ∧ rn.val < 8 := by
    simpa [wellFormed, lowOperands, isLow] using hwf
  obtain ⟨top, e0, e1, e2⟩ := fields_Low0_Low3_Imm36_top9 (p := 0x1C00) (by decide) rd rn imm3 low.1 low.2 rfl
  rw [decode_of_row (r := ⟨0xFE00, 0x1C00, none,
    fun hw _ => .addImm3 (lowField hw 0) (lowField hw 3) (hw.extractLsb' 6 3)⟩)
    (by simp [opcodeTable, rowsF1toF3])
    (rowHits_one (highMask_match _ 0x1C00 9 (by decide) top))]
  simp only [e0, e1, e2]

theorem EncodingRoundTrip.subImm3 (rd : Reg) (rn : Reg) (imm3 : BitVec 3) :
    Statement (.subImm3 rd rn imm3) := by
  intro hwf next _
  refine ⟨_, _, rfl, ?_⟩
  have low : rd.val < 8 ∧ rn.val < 8 := by
    simpa [wellFormed, lowOperands, isLow] using hwf
  obtain ⟨top, e0, e1, e2⟩ := fields_Low0_Low3_Imm36_top9 (p := 0x1E00) (by decide) rd rn imm3 low.1 low.2 rfl
  rw [decode_of_row (r := ⟨0xFE00, 0x1E00, none,
    fun hw _ => .subImm3 (lowField hw 0) (lowField hw 3) (hw.extractLsb' 6 3)⟩)
    (by simp [opcodeTable, rowsF1toF3])
    (rowHits_one (highMask_match _ 0x1E00 9 (by decide) top))]
  simp only [e0, e1, e2]

theorem EncodingRoundTrip.movImm8 (rd : Reg) (imm8 : BitVec 8) :
    Statement (.movImm8 rd imm8) := by
  intro hwf next _
  refine ⟨_, _, rfl, ?_⟩
  have low : rd.val < 8 := by
    simpa [wellFormed, lowOperands, isLow] using hwf
  obtain ⟨top, e0, e1⟩ := fields_Low8_Imm80_top11 (p := 0x2000) (by decide) rd imm8 low rfl
  rw [decode_of_row (r := ⟨0xF800, 0x2000, none,
    fun hw _ => .movImm8 (lowField hw 8) (hw.extractLsb' 0 8)⟩)
    (by simp [opcodeTable, rowsF1toF3])
    (rowHits_one (highMask_match _ 0x2000 11 (by decide) top))]
  simp only [e0, e1]

theorem EncodingRoundTrip.cmpImm8 (rn : Reg) (imm8 : BitVec 8) :
    Statement (.cmpImm8 rn imm8) := by
  intro hwf next _
  refine ⟨_, _, rfl, ?_⟩
  have low : rn.val < 8 := by
    simpa [wellFormed, lowOperands, isLow] using hwf
  obtain ⟨top, e0, e1⟩ := fields_Low8_Imm80_top11 (p := 0x2800) (by decide) rn imm8 low rfl
  rw [decode_of_row (r := ⟨0xF800, 0x2800, none,
    fun hw _ => .cmpImm8 (lowField hw 8) (hw.extractLsb' 0 8)⟩)
    (by simp [opcodeTable, rowsF1toF3])
    (rowHits_one (highMask_match _ 0x2800 11 (by decide) top))]
  simp only [e0, e1]

theorem EncodingRoundTrip.addImm8 (rdn : Reg) (imm8 : BitVec 8) :
    Statement (.addImm8 rdn imm8) := by
  intro hwf next _
  refine ⟨_, _, rfl, ?_⟩
  have low : rdn.val < 8 := by
    simpa [wellFormed, lowOperands, isLow] using hwf
  obtain ⟨top, e0, e1⟩ := fields_Low8_Imm80_top11 (p := 0x3000) (by decide) rdn imm8 low rfl
  rw [decode_of_row (r := ⟨0xF800, 0x3000, none,
    fun hw _ => .addImm8 (lowField hw 8) (hw.extractLsb' 0 8)⟩)
    (by simp [opcodeTable, rowsF1toF3])
    (rowHits_one (highMask_match _ 0x3000 11 (by decide) top))]
  simp only [e0, e1]

theorem EncodingRoundTrip.subImm8 (rdn : Reg) (imm8 : BitVec 8) :
    Statement (.subImm8 rdn imm8) := by
  intro hwf next _
  refine ⟨_, _, rfl, ?_⟩
  have low : rdn.val < 8 := by
    simpa [wellFormed, lowOperands, isLow] using hwf
  obtain ⟨top, e0, e1⟩ := fields_Low8_Imm80_top11 (p := 0x3800) (by decide) rdn imm8 low rfl
  rw [decode_of_row (r := ⟨0xF800, 0x3800, none,
    fun hw _ => .subImm8 (lowField hw 8) (hw.extractLsb' 0 8)⟩)
    (by simp [opcodeTable, rowsF1toF3])
    (rowHits_one (highMask_match _ 0x3800 11 (by decide) top))]
  simp only [e0, e1]

theorem EncodingRoundTrip.andReg (rdn : Reg) (rm : Reg) :
    Statement (.andReg rdn rm) := by
  intro hwf next _
  refine ⟨_, _, rfl, ?_⟩
  have low : rdn.val < 8 ∧ rm.val < 8 := by
    simpa [wellFormed, lowOperands, isLow] using hwf
  obtain ⟨top, e0, e1⟩ := fields_Low0_Low3_top6 (p := 0x4000) (by decide) rdn rm low.1 low.2 rfl
  rw [decode_of_row (r := ⟨0xFFC0, 0x4000, none,
    fun hw _ => .andReg (lowField hw 0) (lowField hw 3)⟩)
    (by simp [opcodeTable, rowsF4])
    (rowHits_one (highMask_match _ 0x4000 6 (by decide) top))]
  simp only [e0, e1]

theorem EncodingRoundTrip.eorReg (rdn : Reg) (rm : Reg) :
    Statement (.eorReg rdn rm) := by
  intro hwf next _
  refine ⟨_, _, rfl, ?_⟩
  have low : rdn.val < 8 ∧ rm.val < 8 := by
    simpa [wellFormed, lowOperands, isLow] using hwf
  obtain ⟨top, e0, e1⟩ := fields_Low0_Low3_top6 (p := 0x4040) (by decide) rdn rm low.1 low.2 rfl
  rw [decode_of_row (r := ⟨0xFFC0, 0x4040, none,
    fun hw _ => .eorReg (lowField hw 0) (lowField hw 3)⟩)
    (by simp [opcodeTable, rowsF4])
    (rowHits_one (highMask_match _ 0x4040 6 (by decide) top))]
  simp only [e0, e1]

theorem EncodingRoundTrip.lslReg (rdn : Reg) (rs : Reg) :
    Statement (.lslReg rdn rs) := by
  intro hwf next _
  refine ⟨_, _, rfl, ?_⟩
  have low : rdn.val < 8 ∧ rs.val < 8 := by
    simpa [wellFormed, lowOperands, isLow] using hwf
  obtain ⟨top, e0, e1⟩ := fields_Low0_Low3_top6 (p := 0x4080) (by decide) rdn rs low.1 low.2 rfl
  rw [decode_of_row (r := ⟨0xFFC0, 0x4080, none,
    fun hw _ => .lslReg (lowField hw 0) (lowField hw 3)⟩)
    (by simp [opcodeTable, rowsF4])
    (rowHits_one (highMask_match _ 0x4080 6 (by decide) top))]
  simp only [e0, e1]

theorem EncodingRoundTrip.lsrReg (rdn : Reg) (rs : Reg) :
    Statement (.lsrReg rdn rs) := by
  intro hwf next _
  refine ⟨_, _, rfl, ?_⟩
  have low : rdn.val < 8 ∧ rs.val < 8 := by
    simpa [wellFormed, lowOperands, isLow] using hwf
  obtain ⟨top, e0, e1⟩ := fields_Low0_Low3_top6 (p := 0x40C0) (by decide) rdn rs low.1 low.2 rfl
  rw [decode_of_row (r := ⟨0xFFC0, 0x40C0, none,
    fun hw _ => .lsrReg (lowField hw 0) (lowField hw 3)⟩)
    (by simp [opcodeTable, rowsF4])
    (rowHits_one (highMask_match _ 0x40C0 6 (by decide) top))]
  simp only [e0, e1]

theorem EncodingRoundTrip.asrReg (rdn : Reg) (rs : Reg) :
    Statement (.asrReg rdn rs) := by
  intro hwf next _
  refine ⟨_, _, rfl, ?_⟩
  have low : rdn.val < 8 ∧ rs.val < 8 := by
    simpa [wellFormed, lowOperands, isLow] using hwf
  obtain ⟨top, e0, e1⟩ := fields_Low0_Low3_top6 (p := 0x4100) (by decide) rdn rs low.1 low.2 rfl
  rw [decode_of_row (r := ⟨0xFFC0, 0x4100, none,
    fun hw _ => .asrReg (lowField hw 0) (lowField hw 3)⟩)
    (by simp [opcodeTable, rowsF4])
    (rowHits_one (highMask_match _ 0x4100 6 (by decide) top))]
  simp only [e0, e1]

theorem EncodingRoundTrip.adcReg (rdn : Reg) (rm : Reg) :
    Statement (.adcReg rdn rm) := by
  intro hwf next _
  refine ⟨_, _, rfl, ?_⟩
  have low : rdn.val < 8 ∧ rm.val < 8 := by
    simpa [wellFormed, lowOperands, isLow] using hwf
  obtain ⟨top, e0, e1⟩ := fields_Low0_Low3_top6 (p := 0x4140) (by decide) rdn rm low.1 low.2 rfl
  rw [decode_of_row (r := ⟨0xFFC0, 0x4140, none,
    fun hw _ => .adcReg (lowField hw 0) (lowField hw 3)⟩)
    (by simp [opcodeTable, rowsF4])
    (rowHits_one (highMask_match _ 0x4140 6 (by decide) top))]
  simp only [e0, e1]

theorem EncodingRoundTrip.sbcReg (rdn : Reg) (rm : Reg) :
    Statement (.sbcReg rdn rm) := by
  intro hwf next _
  refine ⟨_, _, rfl, ?_⟩
  have low : rdn.val < 8 ∧ rm.val < 8 := by
    simpa [wellFormed, lowOperands, isLow] using hwf
  obtain ⟨top, e0, e1⟩ := fields_Low0_Low3_top6 (p := 0x4180) (by decide) rdn rm low.1 low.2 rfl
  rw [decode_of_row (r := ⟨0xFFC0, 0x4180, none,
    fun hw _ => .sbcReg (lowField hw 0) (lowField hw 3)⟩)
    (by simp [opcodeTable, rowsF4])
    (rowHits_one (highMask_match _ 0x4180 6 (by decide) top))]
  simp only [e0, e1]

theorem EncodingRoundTrip.rorReg (rdn : Reg) (rs : Reg) :
    Statement (.rorReg rdn rs) := by
  intro hwf next _
  refine ⟨_, _, rfl, ?_⟩
  have low : rdn.val < 8 ∧ rs.val < 8 := by
    simpa [wellFormed, lowOperands, isLow] using hwf
  obtain ⟨top, e0, e1⟩ := fields_Low0_Low3_top6 (p := 0x41C0) (by decide) rdn rs low.1 low.2 rfl
  rw [decode_of_row (r := ⟨0xFFC0, 0x41C0, none,
    fun hw _ => .rorReg (lowField hw 0) (lowField hw 3)⟩)
    (by simp [opcodeTable, rowsF4])
    (rowHits_one (highMask_match _ 0x41C0 6 (by decide) top))]
  simp only [e0, e1]

theorem EncodingRoundTrip.tstReg (rn : Reg) (rm : Reg) :
    Statement (.tstReg rn rm) := by
  intro hwf next _
  refine ⟨_, _, rfl, ?_⟩
  have low : rn.val < 8 ∧ rm.val < 8 := by
    simpa [wellFormed, lowOperands, isLow] using hwf
  obtain ⟨top, e0, e1⟩ := fields_Low0_Low3_top6 (p := 0x4200) (by decide) rn rm low.1 low.2 rfl
  rw [decode_of_row (r := ⟨0xFFC0, 0x4200, none,
    fun hw _ => .tstReg (lowField hw 0) (lowField hw 3)⟩)
    (by simp [opcodeTable, rowsF4])
    (rowHits_one (highMask_match _ 0x4200 6 (by decide) top))]
  simp only [e0, e1]

theorem EncodingRoundTrip.negReg (rd : Reg) (rm : Reg) :
    Statement (.negReg rd rm) := by
  intro hwf next _
  refine ⟨_, _, rfl, ?_⟩
  have low : rd.val < 8 ∧ rm.val < 8 := by
    simpa [wellFormed, lowOperands, isLow] using hwf
  obtain ⟨top, e0, e1⟩ := fields_Low0_Low3_top6 (p := 0x4240) (by decide) rd rm low.1 low.2 rfl
  rw [decode_of_row (r := ⟨0xFFC0, 0x4240, none,
    fun hw _ => .negReg (lowField hw 0) (lowField hw 3)⟩)
    (by simp [opcodeTable, rowsF4])
    (rowHits_one (highMask_match _ 0x4240 6 (by decide) top))]
  simp only [e0, e1]

theorem EncodingRoundTrip.cmpReg (rn : Reg) (rm : Reg) :
    Statement (.cmpReg rn rm) := by
  intro hwf next _
  refine ⟨_, _, rfl, ?_⟩
  have low : rn.val < 8 ∧ rm.val < 8 := by
    simpa [wellFormed, lowOperands, isLow] using hwf
  obtain ⟨top, e0, e1⟩ := fields_Low0_Low3_top6 (p := 0x4280) (by decide) rn rm low.1 low.2 rfl
  rw [decode_of_row (r := ⟨0xFFC0, 0x4280, none,
    fun hw _ => .cmpReg (lowField hw 0) (lowField hw 3)⟩)
    (by simp [opcodeTable, rowsF4])
    (rowHits_one (highMask_match _ 0x4280 6 (by decide) top))]
  simp only [e0, e1]

theorem EncodingRoundTrip.cmnReg (rn : Reg) (rm : Reg) :
    Statement (.cmnReg rn rm) := by
  intro hwf next _
  refine ⟨_, _, rfl, ?_⟩
  have low : rn.val < 8 ∧ rm.val < 8 := by
    simpa [wellFormed, lowOperands, isLow] using hwf
  obtain ⟨top, e0, e1⟩ := fields_Low0_Low3_top6 (p := 0x42C0) (by decide) rn rm low.1 low.2 rfl
  rw [decode_of_row (r := ⟨0xFFC0, 0x42C0, none,
    fun hw _ => .cmnReg (lowField hw 0) (lowField hw 3)⟩)
    (by simp [opcodeTable, rowsF4])
    (rowHits_one (highMask_match _ 0x42C0 6 (by decide) top))]
  simp only [e0, e1]

theorem EncodingRoundTrip.orrReg (rdn : Reg) (rm : Reg) :
    Statement (.orrReg rdn rm) := by
  intro hwf next _
  refine ⟨_, _, rfl, ?_⟩
  have low : rdn.val < 8 ∧ rm.val < 8 := by
    simpa [wellFormed, lowOperands, isLow] using hwf
  obtain ⟨top, e0, e1⟩ := fields_Low0_Low3_top6 (p := 0x4300) (by decide) rdn rm low.1 low.2 rfl
  rw [decode_of_row (r := ⟨0xFFC0, 0x4300, none,
    fun hw _ => .orrReg (lowField hw 0) (lowField hw 3)⟩)
    (by simp [opcodeTable, rowsF4])
    (rowHits_one (highMask_match _ 0x4300 6 (by decide) top))]
  simp only [e0, e1]

theorem EncodingRoundTrip.mulReg (rdn : Reg) (rm : Reg) :
    Statement (.mulReg rdn rm) := by
  intro hwf next _
  refine ⟨_, _, rfl, ?_⟩
  have low : rdn.val < 8 ∧ rm.val < 8 := by
    simpa [wellFormed, lowOperands, isLow] using hwf
  obtain ⟨top, e0, e1⟩ := fields_Low0_Low3_top6 (p := 0x4340) (by decide) rdn rm low.1 low.2 rfl
  rw [decode_of_row (r := ⟨0xFFC0, 0x4340, none,
    fun hw _ => .mulReg (lowField hw 0) (lowField hw 3)⟩)
    (by simp [opcodeTable, rowsF4])
    (rowHits_one (highMask_match _ 0x4340 6 (by decide) top))]
  simp only [e0, e1]

theorem EncodingRoundTrip.bicReg (rdn : Reg) (rm : Reg) :
    Statement (.bicReg rdn rm) := by
  intro hwf next _
  refine ⟨_, _, rfl, ?_⟩
  have low : rdn.val < 8 ∧ rm.val < 8 := by
    simpa [wellFormed, lowOperands, isLow] using hwf
  obtain ⟨top, e0, e1⟩ := fields_Low0_Low3_top6 (p := 0x4380) (by decide) rdn rm low.1 low.2 rfl
  rw [decode_of_row (r := ⟨0xFFC0, 0x4380, none,
    fun hw _ => .bicReg (lowField hw 0) (lowField hw 3)⟩)
    (by simp [opcodeTable, rowsF4])
    (rowHits_one (highMask_match _ 0x4380 6 (by decide) top))]
  simp only [e0, e1]

theorem EncodingRoundTrip.mvnReg (rd : Reg) (rm : Reg) :
    Statement (.mvnReg rd rm) := by
  intro hwf next _
  refine ⟨_, _, rfl, ?_⟩
  have low : rd.val < 8 ∧ rm.val < 8 := by
    simpa [wellFormed, lowOperands, isLow] using hwf
  obtain ⟨top, e0, e1⟩ := fields_Low0_Low3_top6 (p := 0x43C0) (by decide) rd rm low.1 low.2 rfl
  rw [decode_of_row (r := ⟨0xFFC0, 0x43C0, none,
    fun hw _ => .mvnReg (lowField hw 0) (lowField hw 3)⟩)
    (by simp [opcodeTable, rowsF4])
    (rowHits_one (highMask_match _ 0x43C0 6 (by decide) top))]
  simp only [e0, e1]

theorem EncodingRoundTrip.addHi (rd : Reg) (rm : Reg) :
    Statement (.addHi rd rm) := by
  intro _ next _
  refine ⟨_, _, rfl, ?_⟩
  obtain ⟨top, e0, e1⟩ := fields_Split0_Reg3_top8 (p := 0x4400) (by decide) rd rm rfl
  rw [decode_of_row (r := ⟨0xFF00, 0x4400, none,
    fun hw _ => .addHi (splitField hw) (regField hw 3)⟩)
    (by simp [opcodeTable, rowsF5])
    (rowHits_one (highMask_match _ 0x4400 8 (by decide) top))]
  simp only [e0, e1]

theorem EncodingRoundTrip.cmpHi (rn : Reg) (rm : Reg) :
    Statement (.cmpHi rn rm) := by
  intro _ next _
  refine ⟨_, _, rfl, ?_⟩
  obtain ⟨top, e0, e1⟩ := fields_Split0_Reg3_top8 (p := 0x4500) (by decide) rn rm rfl
  rw [decode_of_row (r := ⟨0xFF00, 0x4500, none,
    fun hw _ => .cmpHi (splitField hw) (regField hw 3)⟩)
    (by simp [opcodeTable, rowsF5])
    (rowHits_one (highMask_match _ 0x4500 8 (by decide) top))]
  simp only [e0, e1]

theorem EncodingRoundTrip.movHi (rd : Reg) (rm : Reg) :
    Statement (.movHi rd rm) := by
  intro _ next _
  refine ⟨_, _, rfl, ?_⟩
  obtain ⟨top, e0, e1⟩ := fields_Split0_Reg3_top8 (p := 0x4600) (by decide) rd rm rfl
  rw [decode_of_row (r := ⟨0xFF00, 0x4600, none,
    fun hw _ => .movHi (splitField hw) (regField hw 3)⟩)
    (by simp [opcodeTable, rowsF5])
    (rowHits_one (highMask_match _ 0x4600 8 (by decide) top))]
  simp only [e0, e1]

theorem EncodingRoundTrip.bx (rm : Reg) :
    Statement (.bx rm) := by
  intro _ next _
  refine ⟨_, _, rfl, ?_⟩
  obtain ⟨top, e0⟩ := fields_Reg3_top7 (p := 0x4700) (by decide) rm rfl
  rw [decode_of_row (r := ⟨0xFF80, 0x4700, none,
    fun hw _ => .bx (regField hw 3)⟩)
    (by simp [opcodeTable, rowsF5])
    (rowHits_one (highMask_match _ 0x4700 7 (by decide) top))]
  simp only [e0]

theorem EncodingRoundTrip.blxReg (rm : Reg) :
    Statement (.blxReg rm) := by
  intro _ next _
  refine ⟨_, _, rfl, ?_⟩
  obtain ⟨top, e0⟩ := fields_Reg3_top7 (p := 0x4780) (by decide) rm rfl
  rw [decode_of_row (r := ⟨0xFF80, 0x4780, none,
    fun hw _ => .blxReg (regField hw 3)⟩)
    (by simp [opcodeTable, rowsF5])
    (rowHits_one (highMask_match _ 0x4780 7 (by decide) top))]
  simp only [e0]

theorem EncodingRoundTrip.ldrLit (rt : Reg) (imm8 : BitVec 8) :
    Statement (.ldrLit rt imm8) := by
  intro hwf next _
  refine ⟨_, _, rfl, ?_⟩
  have low : rt.val < 8 := by
    simpa [wellFormed, lowOperands, isLow] using hwf
  obtain ⟨top, e0, e1⟩ := fields_Low8_Imm80_top11 (p := 0x4800) (by decide) rt imm8 low rfl
  rw [decode_of_row (r := ⟨0xF800, 0x4800, none,
    fun hw _ => .ldrLit (lowField hw 8) (hw.extractLsb' 0 8)⟩)
    (by simp [opcodeTable, rowsF6toF9])
    (rowHits_one (highMask_match _ 0x4800 11 (by decide) top))]
  simp only [e0, e1]

theorem EncodingRoundTrip.strReg (rt : Reg) (rn : Reg) (rm : Reg) :
    Statement (.strReg rt rn rm) := by
  intro hwf next _
  refine ⟨_, _, rfl, ?_⟩
  have low : rt.val < 8 ∧ rn.val < 8 ∧ rm.val < 8 := by
    simpa [wellFormed, lowOperands, isLow] using hwf
  obtain ⟨top, e0, e1, e2⟩ := fields_Low0_Low3_Low6_top9 (p := 0x5000) (by decide) rt rn rm low.1 low.2.1 low.2.2 rfl
  rw [decode_of_row (r := ⟨0xFE00, 0x5000, none,
    fun hw _ => .strReg (lowField hw 0) (lowField hw 3) (lowField hw 6)⟩)
    (by simp [opcodeTable, rowsF6toF9])
    (rowHits_one (highMask_match _ 0x5000 9 (by decide) top))]
  simp only [e0, e1, e2]

theorem EncodingRoundTrip.strhReg (rt : Reg) (rn : Reg) (rm : Reg) :
    Statement (.strhReg rt rn rm) := by
  intro hwf next _
  refine ⟨_, _, rfl, ?_⟩
  have low : rt.val < 8 ∧ rn.val < 8 ∧ rm.val < 8 := by
    simpa [wellFormed, lowOperands, isLow] using hwf
  obtain ⟨top, e0, e1, e2⟩ := fields_Low0_Low3_Low6_top9 (p := 0x5200) (by decide) rt rn rm low.1 low.2.1 low.2.2 rfl
  rw [decode_of_row (r := ⟨0xFE00, 0x5200, none,
    fun hw _ => .strhReg (lowField hw 0) (lowField hw 3) (lowField hw 6)⟩)
    (by simp [opcodeTable, rowsF6toF9])
    (rowHits_one (highMask_match _ 0x5200 9 (by decide) top))]
  simp only [e0, e1, e2]

theorem EncodingRoundTrip.strbReg (rt : Reg) (rn : Reg) (rm : Reg) :
    Statement (.strbReg rt rn rm) := by
  intro hwf next _
  refine ⟨_, _, rfl, ?_⟩
  have low : rt.val < 8 ∧ rn.val < 8 ∧ rm.val < 8 := by
    simpa [wellFormed, lowOperands, isLow] using hwf
  obtain ⟨top, e0, e1, e2⟩ := fields_Low0_Low3_Low6_top9 (p := 0x5400) (by decide) rt rn rm low.1 low.2.1 low.2.2 rfl
  rw [decode_of_row (r := ⟨0xFE00, 0x5400, none,
    fun hw _ => .strbReg (lowField hw 0) (lowField hw 3) (lowField hw 6)⟩)
    (by simp [opcodeTable, rowsF6toF9])
    (rowHits_one (highMask_match _ 0x5400 9 (by decide) top))]
  simp only [e0, e1, e2]

theorem EncodingRoundTrip.ldrsbReg (rt : Reg) (rn : Reg) (rm : Reg) :
    Statement (.ldrsbReg rt rn rm) := by
  intro hwf next _
  refine ⟨_, _, rfl, ?_⟩
  have low : rt.val < 8 ∧ rn.val < 8 ∧ rm.val < 8 := by
    simpa [wellFormed, lowOperands, isLow] using hwf
  obtain ⟨top, e0, e1, e2⟩ := fields_Low0_Low3_Low6_top9 (p := 0x5600) (by decide) rt rn rm low.1 low.2.1 low.2.2 rfl
  rw [decode_of_row (r := ⟨0xFE00, 0x5600, none,
    fun hw _ => .ldrsbReg (lowField hw 0) (lowField hw 3) (lowField hw 6)⟩)
    (by simp [opcodeTable, rowsF6toF9])
    (rowHits_one (highMask_match _ 0x5600 9 (by decide) top))]
  simp only [e0, e1, e2]

theorem EncodingRoundTrip.ldrReg (rt : Reg) (rn : Reg) (rm : Reg) :
    Statement (.ldrReg rt rn rm) := by
  intro hwf next _
  refine ⟨_, _, rfl, ?_⟩
  have low : rt.val < 8 ∧ rn.val < 8 ∧ rm.val < 8 := by
    simpa [wellFormed, lowOperands, isLow] using hwf
  obtain ⟨top, e0, e1, e2⟩ := fields_Low0_Low3_Low6_top9 (p := 0x5800) (by decide) rt rn rm low.1 low.2.1 low.2.2 rfl
  rw [decode_of_row (r := ⟨0xFE00, 0x5800, none,
    fun hw _ => .ldrReg (lowField hw 0) (lowField hw 3) (lowField hw 6)⟩)
    (by simp [opcodeTable, rowsF6toF9])
    (rowHits_one (highMask_match _ 0x5800 9 (by decide) top))]
  simp only [e0, e1, e2]

theorem EncodingRoundTrip.ldrhReg (rt : Reg) (rn : Reg) (rm : Reg) :
    Statement (.ldrhReg rt rn rm) := by
  intro hwf next _
  refine ⟨_, _, rfl, ?_⟩
  have low : rt.val < 8 ∧ rn.val < 8 ∧ rm.val < 8 := by
    simpa [wellFormed, lowOperands, isLow] using hwf
  obtain ⟨top, e0, e1, e2⟩ := fields_Low0_Low3_Low6_top9 (p := 0x5A00) (by decide) rt rn rm low.1 low.2.1 low.2.2 rfl
  rw [decode_of_row (r := ⟨0xFE00, 0x5A00, none,
    fun hw _ => .ldrhReg (lowField hw 0) (lowField hw 3) (lowField hw 6)⟩)
    (by simp [opcodeTable, rowsF6toF9])
    (rowHits_one (highMask_match _ 0x5A00 9 (by decide) top))]
  simp only [e0, e1, e2]

theorem EncodingRoundTrip.ldrbReg (rt : Reg) (rn : Reg) (rm : Reg) :
    Statement (.ldrbReg rt rn rm) := by
  intro hwf next _
  refine ⟨_, _, rfl, ?_⟩
  have low : rt.val < 8 ∧ rn.val < 8 ∧ rm.val < 8 := by
    simpa [wellFormed, lowOperands, isLow] using hwf
  obtain ⟨top, e0, e1, e2⟩ := fields_Low0_Low3_Low6_top9 (p := 0x5C00) (by decide) rt rn rm low.1 low.2.1 low.2.2 rfl
  rw [decode_of_row (r := ⟨0xFE00, 0x5C00, none,
    fun hw _ => .ldrbReg (lowField hw 0) (lowField hw 3) (lowField hw 6)⟩)
    (by simp [opcodeTable, rowsF6toF9])
    (rowHits_one (highMask_match _ 0x5C00 9 (by decide) top))]
  simp only [e0, e1, e2]

theorem EncodingRoundTrip.ldrshReg (rt : Reg) (rn : Reg) (rm : Reg) :
    Statement (.ldrshReg rt rn rm) := by
  intro hwf next _
  refine ⟨_, _, rfl, ?_⟩
  have low : rt.val < 8 ∧ rn.val < 8 ∧ rm.val < 8 := by
    simpa [wellFormed, lowOperands, isLow] using hwf
  obtain ⟨top, e0, e1, e2⟩ := fields_Low0_Low3_Low6_top9 (p := 0x5E00) (by decide) rt rn rm low.1 low.2.1 low.2.2 rfl
  rw [decode_of_row (r := ⟨0xFE00, 0x5E00, none,
    fun hw _ => .ldrshReg (lowField hw 0) (lowField hw 3) (lowField hw 6)⟩)
    (by simp [opcodeTable, rowsF6toF9])
    (rowHits_one (highMask_match _ 0x5E00 9 (by decide) top))]
  simp only [e0, e1, e2]

theorem EncodingRoundTrip.strImm5 (rt : Reg) (rn : Reg) (imm5 : BitVec 5) :
    Statement (.strImm5 rt rn imm5) := by
  intro hwf next _
  refine ⟨_, _, rfl, ?_⟩
  have low : rt.val < 8 ∧ rn.val < 8 := by
    simpa [wellFormed, lowOperands, isLow] using hwf
  obtain ⟨top, e0, e1, e2⟩ := fields_Low0_Low3_Imm56_top11 (p := 0x6000) (by decide) rt rn imm5 low.1 low.2 rfl
  rw [decode_of_row (r := ⟨0xF800, 0x6000, none,
    fun hw _ => .strImm5 (lowField hw 0) (lowField hw 3) (hw.extractLsb' 6 5)⟩)
    (by simp [opcodeTable, rowsF6toF9])
    (rowHits_one (highMask_match _ 0x6000 11 (by decide) top))]
  simp only [e0, e1, e2]

theorem EncodingRoundTrip.ldrImm5 (rt : Reg) (rn : Reg) (imm5 : BitVec 5) :
    Statement (.ldrImm5 rt rn imm5) := by
  intro hwf next _
  refine ⟨_, _, rfl, ?_⟩
  have low : rt.val < 8 ∧ rn.val < 8 := by
    simpa [wellFormed, lowOperands, isLow] using hwf
  obtain ⟨top, e0, e1, e2⟩ := fields_Low0_Low3_Imm56_top11 (p := 0x6800) (by decide) rt rn imm5 low.1 low.2 rfl
  rw [decode_of_row (r := ⟨0xF800, 0x6800, none,
    fun hw _ => .ldrImm5 (lowField hw 0) (lowField hw 3) (hw.extractLsb' 6 5)⟩)
    (by simp [opcodeTable, rowsF6toF9])
    (rowHits_one (highMask_match _ 0x6800 11 (by decide) top))]
  simp only [e0, e1, e2]

theorem EncodingRoundTrip.strbImm5 (rt : Reg) (rn : Reg) (imm5 : BitVec 5) :
    Statement (.strbImm5 rt rn imm5) := by
  intro hwf next _
  refine ⟨_, _, rfl, ?_⟩
  have low : rt.val < 8 ∧ rn.val < 8 := by
    simpa [wellFormed, lowOperands, isLow] using hwf
  obtain ⟨top, e0, e1, e2⟩ := fields_Low0_Low3_Imm56_top11 (p := 0x7000) (by decide) rt rn imm5 low.1 low.2 rfl
  rw [decode_of_row (r := ⟨0xF800, 0x7000, none,
    fun hw _ => .strbImm5 (lowField hw 0) (lowField hw 3) (hw.extractLsb' 6 5)⟩)
    (by simp [opcodeTable, rowsF6toF9])
    (rowHits_one (highMask_match _ 0x7000 11 (by decide) top))]
  simp only [e0, e1, e2]

theorem EncodingRoundTrip.ldrbImm5 (rt : Reg) (rn : Reg) (imm5 : BitVec 5) :
    Statement (.ldrbImm5 rt rn imm5) := by
  intro hwf next _
  refine ⟨_, _, rfl, ?_⟩
  have low : rt.val < 8 ∧ rn.val < 8 := by
    simpa [wellFormed, lowOperands, isLow] using hwf
  obtain ⟨top, e0, e1, e2⟩ := fields_Low0_Low3_Imm56_top11 (p := 0x7800) (by decide) rt rn imm5 low.1 low.2 rfl
  rw [decode_of_row (r := ⟨0xF800, 0x7800, none,
    fun hw _ => .ldrbImm5 (lowField hw 0) (lowField hw 3) (hw.extractLsb' 6 5)⟩)
    (by simp [opcodeTable, rowsF6toF9])
    (rowHits_one (highMask_match _ 0x7800 11 (by decide) top))]
  simp only [e0, e1, e2]

theorem EncodingRoundTrip.strhImm5 (rt : Reg) (rn : Reg) (imm5 : BitVec 5) :
    Statement (.strhImm5 rt rn imm5) := by
  intro hwf next _
  refine ⟨_, _, rfl, ?_⟩
  have low : rt.val < 8 ∧ rn.val < 8 := by
    simpa [wellFormed, lowOperands, isLow] using hwf
  obtain ⟨top, e0, e1, e2⟩ := fields_Low0_Low3_Imm56_top11 (p := 0x8000) (by decide) rt rn imm5 low.1 low.2 rfl
  rw [decode_of_row (r := ⟨0xF800, 0x8000, none,
    fun hw _ => .strhImm5 (lowField hw 0) (lowField hw 3) (hw.extractLsb' 6 5)⟩)
    (by simp [opcodeTable, rowsF6toF9])
    (rowHits_one (highMask_match _ 0x8000 11 (by decide) top))]
  simp only [e0, e1, e2]

theorem EncodingRoundTrip.ldrhImm5 (rt : Reg) (rn : Reg) (imm5 : BitVec 5) :
    Statement (.ldrhImm5 rt rn imm5) := by
  intro hwf next _
  refine ⟨_, _, rfl, ?_⟩
  have low : rt.val < 8 ∧ rn.val < 8 := by
    simpa [wellFormed, lowOperands, isLow] using hwf
  obtain ⟨top, e0, e1, e2⟩ := fields_Low0_Low3_Imm56_top11 (p := 0x8800) (by decide) rt rn imm5 low.1 low.2 rfl
  rw [decode_of_row (r := ⟨0xF800, 0x8800, none,
    fun hw _ => .ldrhImm5 (lowField hw 0) (lowField hw 3) (hw.extractLsb' 6 5)⟩)
    (by simp [opcodeTable, rowsF6toF9])
    (rowHits_one (highMask_match _ 0x8800 11 (by decide) top))]
  simp only [e0, e1, e2]

theorem EncodingRoundTrip.strSp (rt : Reg) (imm8 : BitVec 8) :
    Statement (.strSp rt imm8) := by
  intro hwf next _
  refine ⟨_, _, rfl, ?_⟩
  have low : rt.val < 8 := by
    simpa [wellFormed, lowOperands, isLow] using hwf
  obtain ⟨top, e0, e1⟩ := fields_Low8_Imm80_top11 (p := 0x9000) (by decide) rt imm8 low rfl
  rw [decode_of_row (r := ⟨0xF800, 0x9000, none,
    fun hw _ => .strSp (lowField hw 8) (hw.extractLsb' 0 8)⟩)
    (by simp [opcodeTable, rowsF6toF9])
    (rowHits_one (highMask_match _ 0x9000 11 (by decide) top))]
  simp only [e0, e1]

theorem EncodingRoundTrip.ldrSp (rt : Reg) (imm8 : BitVec 8) :
    Statement (.ldrSp rt imm8) := by
  intro hwf next _
  refine ⟨_, _, rfl, ?_⟩
  have low : rt.val < 8 := by
    simpa [wellFormed, lowOperands, isLow] using hwf
  obtain ⟨top, e0, e1⟩ := fields_Low8_Imm80_top11 (p := 0x9800) (by decide) rt imm8 low rfl
  rw [decode_of_row (r := ⟨0xF800, 0x9800, none,
    fun hw _ => .ldrSp (lowField hw 8) (hw.extractLsb' 0 8)⟩)
    (by simp [opcodeTable, rowsF6toF9])
    (rowHits_one (highMask_match _ 0x9800 11 (by decide) top))]
  simp only [e0, e1]

theorem EncodingRoundTrip.adr (rd : Reg) (imm8 : BitVec 8) :
    Statement (.adr rd imm8) := by
  intro hwf next _
  refine ⟨_, _, rfl, ?_⟩
  have low : rd.val < 8 := by
    simpa [wellFormed, lowOperands, isLow] using hwf
  obtain ⟨top, e0, e1⟩ := fields_Low8_Imm80_top11 (p := 0xA000) (by decide) rd imm8 low rfl
  rw [decode_of_row (r := ⟨0xF800, 0xA000, none,
    fun hw _ => .adr (lowField hw 8) (hw.extractLsb' 0 8)⟩)
    (by simp [opcodeTable, rowsF10toF15])
    (rowHits_one (highMask_match _ 0xA000 11 (by decide) top))]
  simp only [e0, e1]

theorem EncodingRoundTrip.addRdSp (rd : Reg) (imm8 : BitVec 8) :
    Statement (.addRdSp rd imm8) := by
  intro hwf next _
  refine ⟨_, _, rfl, ?_⟩
  have low : rd.val < 8 := by
    simpa [wellFormed, lowOperands, isLow] using hwf
  obtain ⟨top, e0, e1⟩ := fields_Low8_Imm80_top11 (p := 0xA800) (by decide) rd imm8 low rfl
  rw [decode_of_row (r := ⟨0xF800, 0xA800, none,
    fun hw _ => .addRdSp (lowField hw 8) (hw.extractLsb' 0 8)⟩)
    (by simp [opcodeTable, rowsF10toF15])
    (rowHits_one (highMask_match _ 0xA800 11 (by decide) top))]
  simp only [e0, e1]

theorem EncodingRoundTrip.addSpImm7 (imm7 : BitVec 7) :
    Statement (.addSpImm7 imm7) := by
  intro _ next _
  refine ⟨_, _, rfl, ?_⟩
  obtain ⟨top, e0⟩ := fields_Imm70_top7 (p := 0xB000) (by decide) imm7 rfl
  rw [decode_of_row (r := ⟨0xFF80, 0xB000, none,
    fun hw _ => .addSpImm7 (hw.extractLsb' 0 7)⟩)
    (by simp [opcodeTable, rowsF10toF15])
    (rowHits_one (highMask_match _ 0xB000 7 (by decide) top))]
  simp only [e0]

theorem EncodingRoundTrip.subSpImm7 (imm7 : BitVec 7) :
    Statement (.subSpImm7 imm7) := by
  intro _ next _
  refine ⟨_, _, rfl, ?_⟩
  obtain ⟨top, e0⟩ := fields_Imm70_top7 (p := 0xB080) (by decide) imm7 rfl
  rw [decode_of_row (r := ⟨0xFF80, 0xB080, none,
    fun hw _ => .subSpImm7 (hw.extractLsb' 0 7)⟩)
    (by simp [opcodeTable, rowsF10toF15])
    (rowHits_one (highMask_match _ 0xB080 7 (by decide) top))]
  simp only [e0]

theorem EncodingRoundTrip.sxth (rd : Reg) (rm : Reg) :
    Statement (.sxth rd rm) := by
  intro hwf next _
  refine ⟨_, _, rfl, ?_⟩
  have low : rd.val < 8 ∧ rm.val < 8 := by
    simpa [wellFormed, lowOperands, isLow] using hwf
  obtain ⟨top, e0, e1⟩ := fields_Low0_Low3_top6 (p := 0xB200) (by decide) rd rm low.1 low.2 rfl
  rw [decode_of_row (r := ⟨0xFFC0, 0xB200, none,
    fun hw _ => .sxth (lowField hw 0) (lowField hw 3)⟩)
    (by simp [opcodeTable, rowsF10toF15])
    (rowHits_one (highMask_match _ 0xB200 6 (by decide) top))]
  simp only [e0, e1]

theorem EncodingRoundTrip.sxtb (rd : Reg) (rm : Reg) :
    Statement (.sxtb rd rm) := by
  intro hwf next _
  refine ⟨_, _, rfl, ?_⟩
  have low : rd.val < 8 ∧ rm.val < 8 := by
    simpa [wellFormed, lowOperands, isLow] using hwf
  obtain ⟨top, e0, e1⟩ := fields_Low0_Low3_top6 (p := 0xB240) (by decide) rd rm low.1 low.2 rfl
  rw [decode_of_row (r := ⟨0xFFC0, 0xB240, none,
    fun hw _ => .sxtb (lowField hw 0) (lowField hw 3)⟩)
    (by simp [opcodeTable, rowsF10toF15])
    (rowHits_one (highMask_match _ 0xB240 6 (by decide) top))]
  simp only [e0, e1]

theorem EncodingRoundTrip.uxth (rd : Reg) (rm : Reg) :
    Statement (.uxth rd rm) := by
  intro hwf next _
  refine ⟨_, _, rfl, ?_⟩
  have low : rd.val < 8 ∧ rm.val < 8 := by
    simpa [wellFormed, lowOperands, isLow] using hwf
  obtain ⟨top, e0, e1⟩ := fields_Low0_Low3_top6 (p := 0xB280) (by decide) rd rm low.1 low.2 rfl
  rw [decode_of_row (r := ⟨0xFFC0, 0xB280, none,
    fun hw _ => .uxth (lowField hw 0) (lowField hw 3)⟩)
    (by simp [opcodeTable, rowsF10toF15])
    (rowHits_one (highMask_match _ 0xB280 6 (by decide) top))]
  simp only [e0, e1]

theorem EncodingRoundTrip.uxtb (rd : Reg) (rm : Reg) :
    Statement (.uxtb rd rm) := by
  intro hwf next _
  refine ⟨_, _, rfl, ?_⟩
  have low : rd.val < 8 ∧ rm.val < 8 := by
    simpa [wellFormed, lowOperands, isLow] using hwf
  obtain ⟨top, e0, e1⟩ := fields_Low0_Low3_top6 (p := 0xB2C0) (by decide) rd rm low.1 low.2 rfl
  rw [decode_of_row (r := ⟨0xFFC0, 0xB2C0, none,
    fun hw _ => .uxtb (lowField hw 0) (lowField hw 3)⟩)
    (by simp [opcodeTable, rowsF10toF15])
    (rowHits_one (highMask_match _ 0xB2C0 6 (by decide) top))]
  simp only [e0, e1]

theorem EncodingRoundTrip.rev (rd : Reg) (rm : Reg) :
    Statement (.rev rd rm) := by
  intro hwf next _
  refine ⟨_, _, rfl, ?_⟩
  have low : rd.val < 8 ∧ rm.val < 8 := by
    simpa [wellFormed, lowOperands, isLow] using hwf
  obtain ⟨top, e0, e1⟩ := fields_Low0_Low3_top6 (p := 0xBA00) (by decide) rd rm low.1 low.2 rfl
  rw [decode_of_row (r := ⟨0xFFC0, 0xBA00, none,
    fun hw _ => .rev (lowField hw 0) (lowField hw 3)⟩)
    (by simp [opcodeTable, rowsF10toF15])
    (rowHits_one (highMask_match _ 0xBA00 6 (by decide) top))]
  simp only [e0, e1]

theorem EncodingRoundTrip.rev16 (rd : Reg) (rm : Reg) :
    Statement (.rev16 rd rm) := by
  intro hwf next _
  refine ⟨_, _, rfl, ?_⟩
  have low : rd.val < 8 ∧ rm.val < 8 := by
    simpa [wellFormed, lowOperands, isLow] using hwf
  obtain ⟨top, e0, e1⟩ := fields_Low0_Low3_top6 (p := 0xBA40) (by decide) rd rm low.1 low.2 rfl
  rw [decode_of_row (r := ⟨0xFFC0, 0xBA40, none,
    fun hw _ => .rev16 (lowField hw 0) (lowField hw 3)⟩)
    (by simp [opcodeTable, rowsF10toF15])
    (rowHits_one (highMask_match _ 0xBA40 6 (by decide) top))]
  simp only [e0, e1]

theorem EncodingRoundTrip.revsh (rd : Reg) (rm : Reg) :
    Statement (.revsh rd rm) := by
  intro hwf next _
  refine ⟨_, _, rfl, ?_⟩
  have low : rd.val < 8 ∧ rm.val < 8 := by
    simpa [wellFormed, lowOperands, isLow] using hwf
  obtain ⟨top, e0, e1⟩ := fields_Low0_Low3_top6 (p := 0xBAC0) (by decide) rd rm low.1 low.2 rfl
  rw [decode_of_row (r := ⟨0xFFC0, 0xBAC0, none,
    fun hw _ => .revsh (lowField hw 0) (lowField hw 3)⟩)
    (by simp [opcodeTable, rowsF10toF15])
    (rowHits_one (highMask_match _ 0xBAC0 6 (by decide) top))]
  simp only [e0, e1]

theorem EncodingRoundTrip.push (rlist : BitVec 8) (lrBit : Bool) :
    Statement (.push rlist lrBit) := by
  intro _ next _
  refine ⟨_, _, rfl, ?_⟩
  obtain ⟨top, e0, e1⟩ := fields_Imm80_Bit8_top9 (p := 0xB400) (by decide) rlist lrBit rfl
  rw [decode_of_row (r := ⟨0xFE00, 0xB400, none,
    fun hw _ => .push (hw.extractLsb' 0 8) (hw.getLsbD 8)⟩)
    (by simp [opcodeTable, rowsF10toF15])
    (rowHits_one (highMask_match _ 0xB400 9 (by decide) top))]
  simp only [e0, e1]

theorem EncodingRoundTrip.pop (rlist : BitVec 8) (pcBit : Bool) :
    Statement (.pop rlist pcBit) := by
  intro _ next _
  refine ⟨_, _, rfl, ?_⟩
  obtain ⟨top, e0, e1⟩ := fields_Imm80_Bit8_top9 (p := 0xBC00) (by decide) rlist pcBit rfl
  rw [decode_of_row (r := ⟨0xFE00, 0xBC00, none,
    fun hw _ => .pop (hw.extractLsb' 0 8) (hw.getLsbD 8)⟩)
    (by simp [opcodeTable, rowsF10toF15])
    (rowHits_one (highMask_match _ 0xBC00 9 (by decide) top))]
  simp only [e0, e1]

theorem EncodingRoundTrip.stmia (rn : Reg) (rlist : BitVec 8) :
    Statement (.stmia rn rlist) := by
  intro hwf next _
  refine ⟨_, _, rfl, ?_⟩
  have low : rn.val < 8 := by
    simpa [wellFormed, lowOperands, isLow] using hwf
  obtain ⟨top, e0, e1⟩ := fields_Low8_Imm80_top11 (p := 0xC000) (by decide) rn rlist low rfl
  rw [decode_of_row (r := ⟨0xF800, 0xC000, none,
    fun hw _ => .stmia (lowField hw 8) (hw.extractLsb' 0 8)⟩)
    (by simp [opcodeTable, rowsF10toF15])
    (rowHits_one (highMask_match _ 0xC000 11 (by decide) top))]
  simp only [e0, e1]

theorem EncodingRoundTrip.ldmia (rn : Reg) (rlist : BitVec 8) :
    Statement (.ldmia rn rlist) := by
  intro hwf next _
  refine ⟨_, _, rfl, ?_⟩
  have low : rn.val < 8 := by
    simpa [wellFormed, lowOperands, isLow] using hwf
  obtain ⟨top, e0, e1⟩ := fields_Low8_Imm80_top11 (p := 0xC800) (by decide) rn rlist low rfl
  rw [decode_of_row (r := ⟨0xF800, 0xC800, none,
    fun hw _ => .ldmia (lowField hw 8) (hw.extractLsb' 0 8)⟩)
    (by simp [opcodeTable, rowsF10toF15])
    (rowHits_one (highMask_match _ 0xC800 11 (by decide) top))]
  simp only [e0, e1]

theorem EncodingRoundTrip.beq (imm8 : BitVec 8) :
    Statement (.beq imm8) := by
  intro _ next _
  refine ⟨_, _, rfl, ?_⟩
  obtain ⟨top, e0⟩ := fields_Imm80_top8 (p := 0xD000) (by decide) imm8 rfl
  rw [decode_of_row (r := ⟨0xFF00, 0xD000, none,
    fun hw _ => .beq (hw.extractLsb' 0 8)⟩)
    (by simp [opcodeTable, rowsF16toF20])
    (rowHits_one (highMask_match _ 0xD000 8 (by decide) top))]
  simp only [e0]

theorem EncodingRoundTrip.bne (imm8 : BitVec 8) :
    Statement (.bne imm8) := by
  intro _ next _
  refine ⟨_, _, rfl, ?_⟩
  obtain ⟨top, e0⟩ := fields_Imm80_top8 (p := 0xD100) (by decide) imm8 rfl
  rw [decode_of_row (r := ⟨0xFF00, 0xD100, none,
    fun hw _ => .bne (hw.extractLsb' 0 8)⟩)
    (by simp [opcodeTable, rowsF16toF20])
    (rowHits_one (highMask_match _ 0xD100 8 (by decide) top))]
  simp only [e0]

theorem EncodingRoundTrip.bcs (imm8 : BitVec 8) :
    Statement (.bcs imm8) := by
  intro _ next _
  refine ⟨_, _, rfl, ?_⟩
  obtain ⟨top, e0⟩ := fields_Imm80_top8 (p := 0xD200) (by decide) imm8 rfl
  rw [decode_of_row (r := ⟨0xFF00, 0xD200, none,
    fun hw _ => .bcs (hw.extractLsb' 0 8)⟩)
    (by simp [opcodeTable, rowsF16toF20])
    (rowHits_one (highMask_match _ 0xD200 8 (by decide) top))]
  simp only [e0]

theorem EncodingRoundTrip.bcc (imm8 : BitVec 8) :
    Statement (.bcc imm8) := by
  intro _ next _
  refine ⟨_, _, rfl, ?_⟩
  obtain ⟨top, e0⟩ := fields_Imm80_top8 (p := 0xD300) (by decide) imm8 rfl
  rw [decode_of_row (r := ⟨0xFF00, 0xD300, none,
    fun hw _ => .bcc (hw.extractLsb' 0 8)⟩)
    (by simp [opcodeTable, rowsF16toF20])
    (rowHits_one (highMask_match _ 0xD300 8 (by decide) top))]
  simp only [e0]

theorem EncodingRoundTrip.bmi (imm8 : BitVec 8) :
    Statement (.bmi imm8) := by
  intro _ next _
  refine ⟨_, _, rfl, ?_⟩
  obtain ⟨top, e0⟩ := fields_Imm80_top8 (p := 0xD400) (by decide) imm8 rfl
  rw [decode_of_row (r := ⟨0xFF00, 0xD400, none,
    fun hw _ => .bmi (hw.extractLsb' 0 8)⟩)
    (by simp [opcodeTable, rowsF16toF20])
    (rowHits_one (highMask_match _ 0xD400 8 (by decide) top))]
  simp only [e0]

theorem EncodingRoundTrip.bpl (imm8 : BitVec 8) :
    Statement (.bpl imm8) := by
  intro _ next _
  refine ⟨_, _, rfl, ?_⟩
  obtain ⟨top, e0⟩ := fields_Imm80_top8 (p := 0xD500) (by decide) imm8 rfl
  rw [decode_of_row (r := ⟨0xFF00, 0xD500, none,
    fun hw _ => .bpl (hw.extractLsb' 0 8)⟩)
    (by simp [opcodeTable, rowsF16toF20])
    (rowHits_one (highMask_match _ 0xD500 8 (by decide) top))]
  simp only [e0]

theorem EncodingRoundTrip.bvs (imm8 : BitVec 8) :
    Statement (.bvs imm8) := by
  intro _ next _
  refine ⟨_, _, rfl, ?_⟩
  obtain ⟨top, e0⟩ := fields_Imm80_top8 (p := 0xD600) (by decide) imm8 rfl
  rw [decode_of_row (r := ⟨0xFF00, 0xD600, none,
    fun hw _ => .bvs (hw.extractLsb' 0 8)⟩)
    (by simp [opcodeTable, rowsF16toF20])
    (rowHits_one (highMask_match _ 0xD600 8 (by decide) top))]
  simp only [e0]

theorem EncodingRoundTrip.bvc (imm8 : BitVec 8) :
    Statement (.bvc imm8) := by
  intro _ next _
  refine ⟨_, _, rfl, ?_⟩
  obtain ⟨top, e0⟩ := fields_Imm80_top8 (p := 0xD700) (by decide) imm8 rfl
  rw [decode_of_row (r := ⟨0xFF00, 0xD700, none,
    fun hw _ => .bvc (hw.extractLsb' 0 8)⟩)
    (by simp [opcodeTable, rowsF16toF20])
    (rowHits_one (highMask_match _ 0xD700 8 (by decide) top))]
  simp only [e0]

theorem EncodingRoundTrip.bhi (imm8 : BitVec 8) :
    Statement (.bhi imm8) := by
  intro _ next _
  refine ⟨_, _, rfl, ?_⟩
  obtain ⟨top, e0⟩ := fields_Imm80_top8 (p := 0xD800) (by decide) imm8 rfl
  rw [decode_of_row (r := ⟨0xFF00, 0xD800, none,
    fun hw _ => .bhi (hw.extractLsb' 0 8)⟩)
    (by simp [opcodeTable, rowsF16toF20])
    (rowHits_one (highMask_match _ 0xD800 8 (by decide) top))]
  simp only [e0]

theorem EncodingRoundTrip.bls (imm8 : BitVec 8) :
    Statement (.bls imm8) := by
  intro _ next _
  refine ⟨_, _, rfl, ?_⟩
  obtain ⟨top, e0⟩ := fields_Imm80_top8 (p := 0xD900) (by decide) imm8 rfl
  rw [decode_of_row (r := ⟨0xFF00, 0xD900, none,
    fun hw _ => .bls (hw.extractLsb' 0 8)⟩)
    (by simp [opcodeTable, rowsF16toF20])
    (rowHits_one (highMask_match _ 0xD900 8 (by decide) top))]
  simp only [e0]

theorem EncodingRoundTrip.bge (imm8 : BitVec 8) :
    Statement (.bge imm8) := by
  intro _ next _
  refine ⟨_, _, rfl, ?_⟩
  obtain ⟨top, e0⟩ := fields_Imm80_top8 (p := 0xDA00) (by decide) imm8 rfl
  rw [decode_of_row (r := ⟨0xFF00, 0xDA00, none,
    fun hw _ => .bge (hw.extractLsb' 0 8)⟩)
    (by simp [opcodeTable, rowsF16toF20])
    (rowHits_one (highMask_match _ 0xDA00 8 (by decide) top))]
  simp only [e0]

theorem EncodingRoundTrip.blt (imm8 : BitVec 8) :
    Statement (.blt imm8) := by
  intro _ next _
  refine ⟨_, _, rfl, ?_⟩
  obtain ⟨top, e0⟩ := fields_Imm80_top8 (p := 0xDB00) (by decide) imm8 rfl
  rw [decode_of_row (r := ⟨0xFF00, 0xDB00, none,
    fun hw _ => .blt (hw.extractLsb' 0 8)⟩)
    (by simp [opcodeTable, rowsF16toF20])
    (rowHits_one (highMask_match _ 0xDB00 8 (by decide) top))]
  simp only [e0]

theorem EncodingRoundTrip.bgt (imm8 : BitVec 8) :
    Statement (.bgt imm8) := by
  intro _ next _
  refine ⟨_, _, rfl, ?_⟩
  obtain ⟨top, e0⟩ := fields_Imm80_top8 (p := 0xDC00) (by decide) imm8 rfl
  rw [decode_of_row (r := ⟨0xFF00, 0xDC00, none,
    fun hw _ => .bgt (hw.extractLsb' 0 8)⟩)
    (by simp [opcodeTable, rowsF16toF20])
    (rowHits_one (highMask_match _ 0xDC00 8 (by decide) top))]
  simp only [e0]

theorem EncodingRoundTrip.ble (imm8 : BitVec 8) :
    Statement (.ble imm8) := by
  intro _ next _
  refine ⟨_, _, rfl, ?_⟩
  obtain ⟨top, e0⟩ := fields_Imm80_top8 (p := 0xDD00) (by decide) imm8 rfl
  rw [decode_of_row (r := ⟨0xFF00, 0xDD00, none,
    fun hw _ => .ble (hw.extractLsb' 0 8)⟩)
    (by simp [opcodeTable, rowsF16toF20])
    (rowHits_one (highMask_match _ 0xDD00 8 (by decide) top))]
  simp only [e0]

theorem EncodingRoundTrip.svc (imm8 : BitVec 8) :
    Statement (.svc imm8) := by
  intro _ next _
  refine ⟨_, _, rfl, ?_⟩
  obtain ⟨top, e0⟩ := fields_Imm80_top8 (p := 0xDF00) (by decide) imm8 rfl
  rw [decode_of_row (r := ⟨0xFF00, 0xDF00, none,
    fun hw _ => .svc (hw.extractLsb' 0 8)⟩)
    (by simp [opcodeTable, rowsF16toF20])
    (rowHits_one (highMask_match _ 0xDF00 8 (by decide) top))]
  simp only [e0]

theorem EncodingRoundTrip.b (imm11 : BitVec 11) :
    Statement (.b imm11) := by
  intro _ next _
  refine ⟨_, _, rfl, ?_⟩
  obtain ⟨top, e0⟩ := fields_Imm110_top11 (p := 0xE000) (by decide) imm11 rfl
  rw [decode_of_row (r := ⟨0xF800, 0xE000, none,
    fun hw _ => .b (hw.extractLsb' 0 11)⟩)
    (by simp [opcodeTable, rowsF16toF20])
    (rowHits_one (highMask_match _ 0xE000 11 (by decide) top))]
  simp only [e0]

theorem EncodingRoundTrip.blPrefix (imm11 : BitVec 11) :
    Statement (.blPrefix imm11) := by
  intro _ next hnext
  refine ⟨_, _, rfl, ?_⟩
  obtain ⟨top, e0⟩ := fields_Imm110_top11 (p := 0xF000) (by decide) imm11 rfl
  rw [decode_of_row (r := ⟨0xF800, 0xF000, some (0xF800, 0xF800),
    fun hw _ => .blPrefix (hw.extractLsb' 0 11)⟩)
    (by simp [opcodeTable, rowsF16toF20])
    (rowHits_two (highMask_match _ 0xF000 11 (by decide) top)
      (by simpa [admitsNext] using hnext))]
  simp only [e0]

theorem EncodingRoundTrip.blSuffix (imm11 : BitVec 11) :
    Statement (.blSuffix imm11) := by
  intro _ next _
  refine ⟨_, _, rfl, ?_⟩
  obtain ⟨top, e0⟩ := fields_Imm110_top11 (p := 0xF800) (by decide) imm11 rfl
  rw [decode_of_row (r := ⟨0xF800, 0xF800, none,
    fun hw _ => .blSuffix (hw.extractLsb' 0 11)⟩)
    (by simp [opcodeTable, rowsF16toF20])
    (rowHits_one (highMask_match _ 0xF800 11 (by decide) top))]
  simp only [e0]

theorem EncodingRoundTrip.mrs (rd : Reg) (sysm : BitVec 8) :
    Statement (.mrs rd sysm) := by
  intro _ next _
  refine ⟨_, _, rfl, ?_⟩
  obtain ⟨top2, e20, e21⟩ := fields_Reg8_Imm80_top12 (p := 0x8000) (by decide) rd sysm rfl
  simp only [List.headD_cons]
  rw [decode_of_row (r := ⟨0xFFFF, 0xF3EF, some (0xF000, 0x8000),
    fun _ hw2 => .mrs (regField hw2 8) (hw2.extractLsb' 0 8)⟩)
    (by simp [opcodeTable, rowsF16toF20])
    (rowHits_two (by decide)
      (highMask_match _ 0x8000 12 (by decide) top2))]
  simp only [e20, e21]

theorem EncodingRoundTrip.msr (rn : Reg) (sysm : BitVec 8) :
    Statement (.msr rn sysm) := by
  intro _ next _
  refine ⟨_, _, rfl, ?_⟩
  obtain ⟨top, e0⟩ := fields_Reg0_top4 (p := 0xF380) (by decide) rn rfl
  obtain ⟨top2, e20⟩ := fields_Imm80_top8 (p := 0x8800) (by decide) sysm rfl
  simp only [List.headD_cons]
  rw [decode_of_row (r := ⟨0xFFF0, 0xF380, some (0xFF00, 0x8800),
    fun hw hw2 => .msr (regField hw 0) (hw2.extractLsb' 0 8)⟩)
    (by simp [opcodeTable, rowsF16toF20])
    (rowHits_two (highMask_match _ 0xF380 4 (by decide) top)
      (highMask_match _ 0x8800 8 (by decide) top2))]
  simp only [e0, e20]

theorem EncodingRoundTrip.dsb (option : BitVec 4) :
    Statement (.dsb option) := by
  intro _ next _
  refine ⟨_, _, rfl, ?_⟩
  obtain ⟨top2, e20⟩ := fields_Imm40_top4 (p := 0x8F40) (by decide) option rfl
  simp only [List.headD_cons]
  rw [decode_of_row (r := ⟨0xFFFF, 0xF3BF, some (0xFFF0, 0x8F40),
    fun _ hw2 => .dsb (hw2.extractLsb' 0 4)⟩)
    (by simp [opcodeTable, rowsF16toF20])
    (rowHits_two (by decide)
      (highMask_match _ 0x8F40 4 (by decide) top2))]
  simp only [e20]

theorem EncodingRoundTrip.dmb (option : BitVec 4) :
    Statement (.dmb option) := by
  intro _ next _
  refine ⟨_, _, rfl, ?_⟩
  obtain ⟨top2, e20⟩ := fields_Imm40_top4 (p := 0x8F50) (by decide) option rfl
  simp only [List.headD_cons]
  rw [decode_of_row (r := ⟨0xFFFF, 0xF3BF, some (0xFFF0, 0x8F50),
    fun _ hw2 => .dmb (hw2.extractLsb' 0 4)⟩)
    (by simp [opcodeTable, rowsF16toF20])
    (rowHits_two (by decide)
      (highMask_match _ 0x8F50 4 (by decide) top2))]
  simp only [e20]

theorem EncodingRoundTrip.isb (option : BitVec 4) :
    Statement (.isb option) := by
  intro _ next _
  refine ⟨_, _, rfl, ?_⟩
  obtain ⟨top2, e20⟩ := fields_Imm40_top4 (p := 0x8F60) (by decide) option rfl
  simp only [List.headD_cons]
  rw [decode_of_row (r := ⟨0xFFFF, 0xF3BF, some (0xFFF0, 0x8F60),
    fun _ hw2 => .isb (hw2.extractLsb' 0 4)⟩)
    (by simp [opcodeTable, rowsF16toF20])
    (rowHits_two (by decide)
      (highMask_match _ 0x8F60 4 (by decide) top2))]
  simp only [e20]

end Sys2Proof.Laws
end

