-- ==== Sys2Proof/Tests/Slice0.lean ====
section
/-! SUPPORT. Tests: well-formedness refuses what no encoding can hold; the decoder on words written
out from the spec's encodings; each instruction on vectors of spec 95_test_vectors.md and of the
rules; entry, exit, reset and DMA on the spec's worked examples; and, for each statement with
hypotheses, a state that meets them. -/

namespace Sys2Proof.Tests

open Sys2Proof Machine Laws

set_option maxRecDepth 20000

/-! ### Well-formedness: a 3-bit field cannot name a high register -/

theorem test_illFormed_lslImm :
    wellFormed (.lslImm 8 0 0) = false ∧
    wellFormed (.lslImm 0 8 0) = false := by decide
theorem test_illFormed_lsrImm :
    wellFormed (.lsrImm 8 0 0) = false ∧
    wellFormed (.lsrImm 0 8 0) = false := by decide
theorem test_illFormed_asrImm :
    wellFormed (.asrImm 8 0 0) = false ∧
    wellFormed (.asrImm 0 8 0) = false := by decide
theorem test_illFormed_addReg :
    wellFormed (.addReg 8 0 0) = false ∧
    wellFormed (.addReg 0 8 0) = false ∧
    wellFormed (.addReg 0 0 8) = false := by decide
theorem test_illFormed_subReg :
    wellFormed (.subReg 8 0 0) = false ∧
    wellFormed (.subReg 0 8 0) = false ∧
    wellFormed (.subReg 0 0 8) = false := by decide
theorem test_illFormed_addImm3 :
    wellFormed (.addImm3 8 0 0) = false ∧
    wellFormed (.addImm3 0 8 0) = false := by decide
theorem test_illFormed_subImm3 :
    wellFormed (.subImm3 8 0 0) = false ∧
    wellFormed (.subImm3 0 8 0) = false := by decide
theorem test_illFormed_movImm8 : wellFormed (.movImm8 8 0) = false := by decide
theorem test_illFormed_cmpImm8 : wellFormed (.cmpImm8 8 0) = false := by decide
theorem test_illFormed_addImm8 : wellFormed (.addImm8 8 0) = false := by decide
theorem test_illFormed_subImm8 : wellFormed (.subImm8 8 0) = false := by decide
theorem test_illFormed_andReg :
    wellFormed (.andReg 8 0) = false ∧
    wellFormed (.andReg 0 8) = false := by decide
theorem test_illFormed_eorReg :
    wellFormed (.eorReg 8 0) = false ∧
    wellFormed (.eorReg 0 8) = false := by decide
theorem test_illFormed_lslReg :
    wellFormed (.lslReg 8 0) = false ∧
    wellFormed (.lslReg 0 8) = false := by decide
theorem test_illFormed_lsrReg :
    wellFormed (.lsrReg 8 0) = false ∧
    wellFormed (.lsrReg 0 8) = false := by decide
theorem test_illFormed_asrReg :
    wellFormed (.asrReg 8 0) = false ∧
    wellFormed (.asrReg 0 8) = false := by decide
theorem test_illFormed_adcReg :
    wellFormed (.adcReg 8 0) = false ∧
    wellFormed (.adcReg 0 8) = false := by decide
theorem test_illFormed_sbcReg :
    wellFormed (.sbcReg 8 0) = false ∧
    wellFormed (.sbcReg 0 8) = false := by decide
theorem test_illFormed_rorReg :
    wellFormed (.rorReg 8 0) = false ∧
    wellFormed (.rorReg 0 8) = false := by decide
theorem test_illFormed_tstReg :
    wellFormed (.tstReg 8 0) = false ∧
    wellFormed (.tstReg 0 8) = false := by decide
theorem test_illFormed_negReg :
    wellFormed (.negReg 8 0) = false ∧
    wellFormed (.negReg 0 8) = false := by decide
theorem test_illFormed_cmpReg :
    wellFormed (.cmpReg 8 0) = false ∧
    wellFormed (.cmpReg 0 8) = false := by decide
theorem test_illFormed_cmnReg :
    wellFormed (.cmnReg 8 0) = false ∧
    wellFormed (.cmnReg 0 8) = false := by decide
theorem test_illFormed_orrReg :
    wellFormed (.orrReg 8 0) = false ∧
    wellFormed (.orrReg 0 8) = false := by decide
theorem test_illFormed_mulReg :
    wellFormed (.mulReg 8 0) = false ∧
    wellFormed (.mulReg 0 8) = false := by decide
theorem test_illFormed_bicReg :
    wellFormed (.bicReg 8 0) = false ∧
    wellFormed (.bicReg 0 8) = false := by decide
theorem test_illFormed_mvnReg :
    wellFormed (.mvnReg 8 0) = false ∧
    wellFormed (.mvnReg 0 8) = false := by decide
theorem test_illFormed_ldrLit : wellFormed (.ldrLit 8 0) = false := by decide
theorem test_illFormed_strReg :
    wellFormed (.strReg 8 0 0) = false ∧
    wellFormed (.strReg 0 8 0) = false ∧
    wellFormed (.strReg 0 0 8) = false := by decide
theorem test_illFormed_strhReg :
    wellFormed (.strhReg 8 0 0) = false ∧
    wellFormed (.strhReg 0 8 0) = false ∧
    wellFormed (.strhReg 0 0 8) = false := by decide
theorem test_illFormed_strbReg :
    wellFormed (.strbReg 8 0 0) = false ∧
    wellFormed (.strbReg 0 8 0) = false ∧
    wellFormed (.strbReg 0 0 8) = false := by decide
theorem test_illFormed_ldrsbReg :
    wellFormed (.ldrsbReg 8 0 0) = false ∧
    wellFormed (.ldrsbReg 0 8 0) = false ∧
    wellFormed (.ldrsbReg 0 0 8) = false := by decide
theorem test_illFormed_ldrReg :
    wellFormed (.ldrReg 8 0 0) = false ∧
    wellFormed (.ldrReg 0 8 0) = false ∧
    wellFormed (.ldrReg 0 0 8) = false := by decide
theorem test_illFormed_ldrhReg :
    wellFormed (.ldrhReg 8 0 0) = false ∧
    wellFormed (.ldrhReg 0 8 0) = false ∧
    wellFormed (.ldrhReg 0 0 8) = false := by decide
theorem test_illFormed_ldrbReg :
    wellFormed (.ldrbReg 8 0 0) = false ∧
    wellFormed (.ldrbReg 0 8 0) = false ∧
    wellFormed (.ldrbReg 0 0 8) = false := by decide
theorem test_illFormed_ldrshReg :
    wellFormed (.ldrshReg 8 0 0) = false ∧
    wellFormed (.ldrshReg 0 8 0) = false ∧
    wellFormed (.ldrshReg 0 0 8) = false := by decide
theorem test_illFormed_strImm5 :
    wellFormed (.strImm5 8 0 0) = false ∧
    wellFormed (.strImm5 0 8 0) = false := by decide
theorem test_illFormed_ldrImm5 :
    wellFormed (.ldrImm5 8 0 0) = false ∧
    wellFormed (.ldrImm5 0 8 0) = false := by decide
theorem test_illFormed_strbImm5 :
    wellFormed (.strbImm5 8 0 0) = false ∧
    wellFormed (.strbImm5 0 8 0) = false := by decide
theorem test_illFormed_ldrbImm5 :
    wellFormed (.ldrbImm5 8 0 0) = false ∧
    wellFormed (.ldrbImm5 0 8 0) = false := by decide
theorem test_illFormed_strhImm5 :
    wellFormed (.strhImm5 8 0 0) = false ∧
    wellFormed (.strhImm5 0 8 0) = false := by decide
theorem test_illFormed_ldrhImm5 :
    wellFormed (.ldrhImm5 8 0 0) = false ∧
    wellFormed (.ldrhImm5 0 8 0) = false := by decide
theorem test_illFormed_strSp : wellFormed (.strSp 8 0) = false := by decide
theorem test_illFormed_ldrSp : wellFormed (.ldrSp 8 0) = false := by decide
theorem test_illFormed_adr : wellFormed (.adr 8 0) = false := by decide
theorem test_illFormed_addRdSp : wellFormed (.addRdSp 8 0) = false := by decide
theorem test_illFormed_sxth :
    wellFormed (.sxth 8 0) = false ∧
    wellFormed (.sxth 0 8) = false := by decide
theorem test_illFormed_sxtb :
    wellFormed (.sxtb 8 0) = false ∧
    wellFormed (.sxtb 0 8) = false := by decide
theorem test_illFormed_uxth :
    wellFormed (.uxth 8 0) = false ∧
    wellFormed (.uxth 0 8) = false := by decide
theorem test_illFormed_uxtb :
    wellFormed (.uxtb 8 0) = false ∧
    wellFormed (.uxtb 0 8) = false := by decide
theorem test_illFormed_rev :
    wellFormed (.rev 8 0) = false ∧
    wellFormed (.rev 0 8) = false := by decide
theorem test_illFormed_rev16 :
    wellFormed (.rev16 8 0) = false ∧
    wellFormed (.rev16 0 8) = false := by decide
theorem test_illFormed_revsh :
    wellFormed (.revsh 8 0) = false ∧
    wellFormed (.revsh 0 8) = false := by decide
theorem test_illFormed_stmia : wellFormed (.stmia 8 0) = false := by decide
theorem test_illFormed_ldmia : wellFormed (.ldmia 8 0) = false := by decide

theorem test_wellFormed_anyRegister : wellFormed (.movHi 15 14) = true ∧ wellFormed (.bx 14) = true := by
  decide

/-! ### Decoding: words written out field by field from the diagrams of 30_encoding.md -/

theorem test_decode_lslImm :
    decode (0b00000#5 ++ 0b10101#5 ++ 0b010#3 ++ 0b100#3 : Half) 0x0000 =
      .ok (.lslImm 4 2 0b10101) := by
  decide

theorem test_decode_lsrImm :
    decode (0b00001#5 ++ 0b10010#5 ++ 0b101#3 ++ 0b111#3 : Half) 0x0000 =
      .ok (.lsrImm 7 5 0b10010) := by
  decide

theorem test_decode_asrImm :
    decode (0b00010#5 ++ 0b01111#5 ++ 0b000#3 ++ 0b010#3 : Half) 0x0000 =
      .ok (.asrImm 2 0 0b01111) := by
  decide

theorem test_decode_addReg :
    decode (0b0001100#7 ++ 0b001#3 ++ 0b011#3 ++ 0b101#3 : Half) 0x0000 =
      .ok (.addReg 5 3 1) := by
  decide

theorem test_decode_subReg :
    decode (0b0001101#7 ++ 0b100#3 ++ 0b110#3 ++ 0b000#3 : Half) 0x0000 =
      .ok (.subReg 0 6 4) := by
  decide

theorem test_decode_addImm3 :
    decode (0b0001110#7 ++ 0b110#3 ++ 0b001#3 ++ 0b011#3 : Half) 0x0000 =
      .ok (.addImm3 3 1 0b110) := by
  decide

theorem test_decode_subImm3 :
    decode (0b0001111#7 ++ 0b011#3 ++ 0b100#3 ++ 0b110#3 : Half) 0x0000 =
      .ok (.subImm3 6 4 0b011) := by
  decide

theorem test_decode_movImm8 :
    decode (0b00100#5 ++ 0b001#3 ++ 0b11000000#8 : Half) 0x0000 =
      .ok (.movImm8 1 0b11000000) := by
  decide

theorem test_decode_cmpImm8 :
    decode (0b00101#5 ++ 0b100#3 ++ 0b01011101#8 : Half) 0x0000 =
      .ok (.cmpImm8 4 0b01011101) := by
  decide

theorem test_decode_addImm8 :
    decode (0b00110#5 ++ 0b111#3 ++ 0b11111010#8 : Half) 0x0000 =
      .ok (.addImm8 7 0b11111010) := by
  decide

theorem test_decode_subImm8 :
    decode (0b00111#5 ++ 0b010#3 ++ 0b10010111#8 : Half) 0x0000 =
      .ok (.subImm8 2 0b10010111) := by
  decide

theorem test_decode_andReg :
    decode (0b0100000000#10 ++ 0b011#3 ++ 0b101#3 : Half) 0x0000 =
      .ok (.andReg 5 3) := by
  decide

theorem test_decode_eorReg :
    decode (0b0100000001#10 ++ 0b110#3 ++ 0b000#3 : Half) 0x0000 =
      .ok (.eorReg 0 6) := by
  decide

theorem test_decode_lslReg :
    decode (0b0100000010#10 ++ 0b001#3 ++ 0b011#3 : Half) 0x0000 =
      .ok (.lslReg 3 1) := by
  decide

theorem test_decode_lsrReg :
    decode (0b0100000011#10 ++ 0b100#3 ++ 0b110#3 : Half) 0x0000 =
      .ok (.lsrReg 6 4) := by
  decide

theorem test_decode_asrReg :
    decode (0b0100000100#10 ++ 0b111#3 ++ 0b001#3 : Half) 0x0000 =
      .ok (.asrReg 1 7) := by
  decide

theorem test_decode_adcReg :
    decode (0b0100000101#10 ++ 0b010#3 ++ 0b100#3 : Half) 0x0000 =
      .ok (.adcReg 4 2) := by
  decide

theorem test_decode_sbcReg :
    decode (0b0100000110#10 ++ 0b101#3 ++ 0b111#3 : Half) 0x0000 =
      .ok (.sbcReg 7 5) := by
  decide

theorem test_decode_rorReg :
    decode (0b0100000111#10 ++ 0b000#3 ++ 0b010#3 : Half) 0x0000 =
      .ok (.rorReg 2 0) := by
  decide

theorem test_decode_tstReg :
    decode (0b0100001000#10 ++ 0b011#3 ++ 0b101#3 : Half) 0x0000 =
      .ok (.tstReg 5 3) := by
  decide

theorem test_decode_negReg :
    decode (0b0100001001#10 ++ 0b110#3 ++ 0b000#3 : Half) 0x0000 =
      .ok (.negReg 0 6) := by
  decide

theorem test_decode_cmpReg :
    decode (0b0100001010#10 ++ 0b001#3 ++ 0b011#3 : Half) 0x0000 =
      .ok (.cmpReg 3 1) := by
  decide

theorem test_decode_cmnReg :
    decode (0b0100001011#10 ++ 0b100#3 ++ 0b110#3 : Half) 0x0000 =
      .ok (.cmnReg 6 4) := by
  decide

theorem test_decode_orrReg :
    decode (0b0100001100#10 ++ 0b111#3 ++ 0b001#3 : Half) 0x0000 =
      .ok (.orrReg 1 7) := by
  decide

theorem test_decode_mulReg :
    decode (0b0100001101#10 ++ 0b010#3 ++ 0b100#3 : Half) 0x0000 =
      .ok (.mulReg 4 2) := by
  decide

theorem test_decode_bicReg :
    decode (0b0100001110#10 ++ 0b101#3 ++ 0b111#3 : Half) 0x0000 =
      .ok (.bicReg 7 5) := by
  decide

theorem test_decode_mvnReg :
    decode (0b0100001111#10 ++ 0b000#3 ++ 0b010#3 : Half) 0x0000 =
      .ok (.mvnReg 2 0) := by
  decide

theorem test_decode_addHi :
    decode (0b01000100#8 ++ 0b1#1 ++ 0b0101#4 ++ 0b100#3 : Half) 0x0000 =
      .ok (.addHi 12 5) := by
  decide

theorem test_decode_cmpHi :
    decode (0b01000101#8 ++ 0b0#1 ++ 0b1010#4 ++ 0b011#3 : Half) 0x0000 =
      .ok (.cmpHi 3 10) := by
  decide

theorem test_decode_movHi :
    decode (0b01000110#8 ++ 0b1#1 ++ 0b1111#4 ++ 0b010#3 : Half) 0x0000 =
      .ok (.movHi 10 15) := by
  decide

theorem test_decode_bx :
    decode (0b010001110#9 ++ 0b0100#4 ++ 0b101#3 : Half) 0x0000 =
      .ok (.bx 4) := by
  decide

theorem test_decode_blxReg :
    decode (0b010001111#9 ++ 0b1001#4 ++ 0b101#3 : Half) 0x0000 =
      .ok (.blxReg 9) := by
  decide

theorem test_decode_ldrLit :
    decode (0b01001#5 ++ 0b100#3 ++ 0b00010101#8 : Half) 0x0000 =
      .ok (.ldrLit 4 0b00010101) := by
  decide

theorem test_decode_strReg :
    decode (0b0101000#7 ++ 0b011#3 ++ 0b101#3 ++ 0b111#3 : Half) 0x0000 =
      .ok (.strReg 7 5 3) := by
  decide

theorem test_decode_strhReg :
    decode (0b0101001#7 ++ 0b110#3 ++ 0b000#3 ++ 0b010#3 : Half) 0x0000 =
      .ok (.strhReg 2 0 6) := by
  decide

theorem test_decode_strbReg :
    decode (0b0101010#7 ++ 0b001#3 ++ 0b011#3 ++ 0b101#3 : Half) 0x0000 =
      .ok (.strbReg 5 3 1) := by
  decide

theorem test_decode_ldrsbReg :
    decode (0b0101011#7 ++ 0b100#3 ++ 0b110#3 ++ 0b000#3 : Half) 0x0000 =
      .ok (.ldrsbReg 0 6 4) := by
  decide

theorem test_decode_ldrReg :
    decode (0b0101100#7 ++ 0b111#3 ++ 0b001#3 ++ 0b011#3 : Half) 0x0000 =
      .ok (.ldrReg 3 1 7) := by
  decide

theorem test_decode_ldrhReg :
    decode (0b0101101#7 ++ 0b010#3 ++ 0b100#3 ++ 0b110#3 : Half) 0x0000 =
      .ok (.ldrhReg 6 4 2) := by
  decide

theorem test_decode_ldrbReg :
    decode (0b0101110#7 ++ 0b101#3 ++ 0b111#3 ++ 0b001#3 : Half) 0x0000 =
      .ok (.ldrbReg 1 7 5) := by
  decide

theorem test_decode_ldrshReg :
    decode (0b0101111#7 ++ 0b000#3 ++ 0b010#3 ++ 0b100#3 : Half) 0x0000 =
      .ok (.ldrshReg 4 2 0) := by
  decide

theorem test_decode_strImm5 :
    decode (0b01100#5 ++ 0b11010#5 ++ 0b101#3 ++ 0b111#3 : Half) 0x0000 =
      .ok (.strImm5 7 5 0b11010) := by
  decide

theorem test_decode_ldrImm5 :
    decode (0b01101#5 ++ 0b10111#5 ++ 0b000#3 ++ 0b010#3 : Half) 0x0000 =
      .ok (.ldrImm5 2 0 0b10111) := by
  decide

theorem test_decode_strbImm5 :
    decode (0b01110#5 ++ 0b10100#5 ++ 0b011#3 ++ 0b101#3 : Half) 0x0000 =
      .ok (.strbImm5 5 3 0b10100) := by
  decide

theorem test_decode_ldrbImm5 :
    decode (0b01111#5 ++ 0b10001#5 ++ 0b110#3 ++ 0b000#3 : Half) 0x0000 =
      .ok (.ldrbImm5 0 6 0b10001) := by
  decide

theorem test_decode_strhImm5 :
    decode (0b10000#5 ++ 0b01110#5 ++ 0b001#3 ++ 0b011#3 : Half) 0x0000 =
      .ok (.strhImm5 3 1 0b01110) := by
  decide

theorem test_decode_ldrhImm5 :
    decode (0b10001#5 ++ 0b01011#5 ++ 0b100#3 ++ 0b110#3 : Half) 0x0000 =
      .ok (.ldrhImm5 6 4 0b01011) := by
  decide

theorem test_decode_strSp :
    decode (0b10010#5 ++ 0b001#3 ++ 0b01001000#8 : Half) 0x0000 =
      .ok (.strSp 1 0b01001000) := by
  decide

theorem test_decode_ldrSp :
    decode (0b10011#5 ++ 0b100#3 ++ 0b11100101#8 : Half) 0x0000 =
      .ok (.ldrSp 4 0b11100101) := by
  decide

theorem test_decode_adr :
    decode (0b10100#5 ++ 0b111#3 ++ 0b10000010#8 : Half) 0x0000 =
      .ok (.adr 7 0b10000010) := by
  decide

theorem test_decode_addRdSp :
    decode (0b10101#5 ++ 0b010#3 ++ 0b00011111#8 : Half) 0x0000 =
      .ok (.addRdSp 2 0b00011111) := by
  decide

theorem test_decode_addSpImm7 :
    decode (0b101100000#9 ++ 0b0111100#7 : Half) 0x0000 =
      .ok (.addSpImm7 0b0111100) := by
  decide

theorem test_decode_subSpImm7 :
    decode (0b101100001#9 ++ 0b1011001#7 : Half) 0x0000 =
      .ok (.subSpImm7 0b1011001) := by
  decide

theorem test_decode_sxth :
    decode (0b1011001000#10 ++ 0b001#3 ++ 0b011#3 : Half) 0x0000 =
      .ok (.sxth 3 1) := by
  decide

theorem test_decode_sxtb :
    decode (0b1011001001#10 ++ 0b100#3 ++ 0b110#3 : Half) 0x0000 =
      .ok (.sxtb 6 4) := by
  decide

theorem test_decode_uxth :
    decode (0b1011001010#10 ++ 0b111#3 ++ 0b001#3 : Half) 0x0000 =
      .ok (.uxth 1 7) := by
  decide

theorem test_decode_uxtb :
    decode (0b1011001011#10 ++ 0b010#3 ++ 0b100#3 : Half) 0x0000 =
      .ok (.uxtb 4 2) := by
  decide

theorem test_decode_rev :
    decode (0b1011101000#10 ++ 0b101#3 ++ 0b111#3 : Half) 0x0000 =
      .ok (.rev 7 5) := by
  decide

theorem test_decode_rev16 :
    decode (0b1011101001#10 ++ 0b000#3 ++ 0b010#3 : Half) 0x0000 =
      .ok (.rev16 2 0) := by
  decide

theorem test_decode_revsh :
    decode (0b1011101011#10 ++ 0b011#3 ++ 0b101#3 : Half) 0x0000 =
      .ok (.revsh 5 3) := by
  decide

theorem test_decode_push :
    decode (0b1011010#7 ++ 0b1#1 ++ 0b01000001#8 : Half) 0x0000 =
      .ok (.push 0b01000001 true) := by
  decide

theorem test_decode_pop :
    decode (0b1011110#7 ++ 0b1#1 ++ 0b11011110#8 : Half) 0x0000 =
      .ok (.pop 0b11011110 true) := by
  decide

theorem test_decode_stmia :
    decode (0b11000#5 ++ 0b110#3 ++ 0b01111011#8 : Half) 0x0000 =
      .ok (.stmia 6 0b01111011) := by
  decide

theorem test_decode_ldmia :
    decode (0b11001#5 ++ 0b001#3 ++ 0b00011000#8 : Half) 0x0000 =
      .ok (.ldmia 1 0b00011000) := by
  decide

theorem test_decode_beq :
    decode (0b11010000#8 ++ 0b10110101#8 : Half) 0x0000 =
      .ok (.beq 0b10110101) := by
  decide

theorem test_decode_bne :
    decode (0b11010001#8 ++ 0b01010010#8 : Half) 0x0000 =
      .ok (.bne 0b01010010) := by
  decide

theorem test_decode_bcs :
    decode (0b11010010#8 ++ 0b11101111#8 : Half) 0x0000 =
      .ok (.bcs 0b11101111) := by
  decide

theorem test_decode_bcc :
    decode (0b11010011#8 ++ 0b10001100#8 : Half) 0x0000 =
      .ok (.bcc 0b10001100) := by
  decide

theorem test_decode_bmi :
    decode (0b11010100#8 ++ 0b00101001#8 : Half) 0x0000 =
      .ok (.bmi 0b00101001) := by
  decide

theorem test_decode_bpl :
    decode (0b11010101#8 ++ 0b11000110#8 : Half) 0x0000 =
      .ok (.bpl 0b11000110) := by
  decide

theorem test_decode_bvs :
    decode (0b11010110#8 ++ 0b01100011#8 : Half) 0x0000 =
      .ok (.bvs 0b01100011) := by
  decide

theorem test_decode_bvc :
    decode (0b11010111#8 ++ 0b00000000#8 : Half) 0x0000 =
      .ok (.bvc 0b00000000) := by
  decide

theorem test_decode_bhi :
    decode (0b11011000#8 ++ 0b10011101#8 : Half) 0x0000 =
      .ok (.bhi 0b10011101) := by
  decide

theorem test_decode_bls :
    decode (0b11011001#8 ++ 0b00111010#8 : Half) 0x0000 =
      .ok (.bls 0b00111010) := by
  decide

theorem test_decode_bge :
    decode (0b11011010#8 ++ 0b11010111#8 : Half) 0x0000 =
      .ok (.bge 0b11010111) := by
  decide

theorem test_decode_blt :
    decode (0b11011011#8 ++ 0b01110100#8 : Half) 0x0000 =
      .ok (.blt 0b01110100) := by
  decide

theorem test_decode_bgt :
    decode (0b11011100#8 ++ 0b00010001#8 : Half) 0x0000 =
      .ok (.bgt 0b00010001) := by
  decide

theorem test_decode_ble :
    decode (0b11011101#8 ++ 0b10101110#8 : Half) 0x0000 =
      .ok (.ble 0b10101110) := by
  decide

theorem test_decode_svc :
    decode (0b11011111#8 ++ 0b01001011#8 : Half) 0x0000 =
      .ok (.svc 0b01001011) := by
  decide

theorem test_decode_b :
    decode (0b11100#5 ++ 0b00111101000#11 : Half) 0x0000 =
      .ok (.b 0b00111101000) := by
  decide

theorem test_decode_blPrefix :
    decode (0b11110#5 ++ 0b11110000101#11 : Half) 0b1111101010101010 =
      .ok (.blPrefix 0b11110000101) := by
  decide

theorem test_decode_blSuffix :
    decode (0b11111#5 ++ 0b10100100010#11 : Half) 0x0000 =
      .ok (.blSuffix 0b10100100010) := by
  decide

theorem test_decode_mrs :
    decode (0b1111001111101111#16 : Half)
      (0b1000#4 ++ 0b1000#4 ++ 0b10111111#8 : Half) =
      .ok (.mrs 8 0b10111111) := by
  decide

theorem test_decode_msr :
    decode (0b111100111000#12 ++ 0b1101#4 : Half)
      (0b10001000#8 ++ 0b01011100#8 : Half) =
      .ok (.msr 13 0b01011100) := by
  decide

theorem test_decode_dsb :
    decode (0b1111001110111111#16 : Half)
      (0b100011110100#12 ++ 0b1001#4 : Half) =
      .ok (.dsb 0b1001) := by
  decide

theorem test_decode_dmb :
    decode (0b1111001110111111#16 : Half)
      (0b100011110101#12 ++ 0b0110#4 : Half) =
      .ok (.dmb 0b0110) := by
  decide

theorem test_decode_isb :
    decode (0b1111001110111111#16 : Half)
      (0b100011110110#12 ++ 0b0011#4 : Half) =
      .ok (.isb 0b0011) := by
  decide

theorem test_decode_blPrefix_alone : decode 0xF001 0x2000 = .error .loneHalf11110 := by decide

theorem test_decode_hint : decode 0xBF00 0x0000 = .error .block1011 := by decide

theorem test_decode_undefined : decode 0xDE00 0x0000 = .error .condition1110 := by decide

theorem test_decode_block11101 : decode 0xE800 0x0000 = .error .block11101 := by decide

theorem test_decode_tooShort : decodeBytes [0x80] = .error .truncated := by decide

theorem test_decodeTableWord_move : decodeTableWord 16 0x2080 = some (.movImm8 0 128) := by decide

theorem test_decodeTableWord_mrs : decodeTableWord 32 0x8010F3EF = some (.mrs 0 16) := by decide

/-! ### One step of each instruction, at address 0x100 -/

/-- The configuration of spec 95_test_vectors.md. -/
def testCfg : Config :=
  { defaultConfig with romSize := 0x400, ramSize := 0x400, tickThreshold := 1000 }

/-- ROM with the given halfwords from 0x100 on, the rest erased. -/
def romOf (code : List Half) : Memory :=
  Memory.setBytes [] 0x100 (code.flatMap fun h => [h.extractLsb' 0 8, h.extractLsb' 8 8])

/-- The start state of a vector: the code, the listed registers, the flags as `NZCV`, the listed words
of RAM by offset. -/
def start (code : List Half) (regs : List (Reg × Word)) (nzcv : BitVec 4)
    (ram : List (Nat × Word) := []) : State :=
  regs.foldl (fun t r => t.setReg r.1 r.2)
    (State.setReg { State.reset with
      cfg := testCfg
      rom := romOf code
      icache := .decoded (romOf code)
      regs := Vector.replicate 16 0
      flags := ⟨nzcv.getLsbD 3, nzcv.getLsbD 2, nzcv.getLsbD 1, nzcv.getLsbD 0⟩
      ram := ram.foldl (fun m w => Memory.setBytes m (0x20000000 + w.1) (leBytes 4 w.2)) [] } pc 0x102)

/-- The flags as `NZCV`. -/
def nzcv (s : State) : BitVec 4 :=
  BitVec.ofBool s.flags.n ++ BitVec.ofBool s.flags.z ++ BitVec.ofBool s.flags.c ++
    BitVec.ofBool s.flags.v

/-- What a test looks at after a step: some registers, the flags, some words of RAM by offset. -/
def seen (r : Result) (regs : List Reg) (words : List Nat := []) :
    Option (List Word × BitVec 4 × List Word) :=
  match r with
  | .next t => some (regs.map t.reg, nzcv t,
      words.map fun o => plainRead t (BitVec.ofNat 32 (0x20000000 + o)) .word)
  | _ => none

theorem test_step_lslImm_zeroKeepsCarry :
    seen (step (start [0x0001] [(0, 0x80000000)] 0b0010)) [1, 15] =
      some ([0x80000000, 0x104], 0b1010, []) := by
  decide

theorem test_step_lslImm_lastOut :
    seen (step (start [0x0041] [(0, 0x80000001)] 0b0001)) [1] =
      some ([2], 0b0011, []) := by
  decide

theorem test_step_lsrImm_zeroMeans32 :
    seen (step (start [0x0801] [(0, 0x80000000)] 0b0000)) [1] =
      some ([0], 0b0110, []) := by
  decide

theorem test_step_asrImm_zeroMeans32 :
    seen (step (start [0x1001] [(0, 0x80000000)] 0b0000)) [1] =
      some ([0xffffffff], 0b1010, []) := by
  decide

theorem test_step_asrImm_four :
    seen (step (start [0x1101] [(0, 0xf0000008)] 0b0000)) [1] =
      some ([0xff000000], 0b1010, []) := by
  decide

theorem test_step_addReg_overflow :
    seen (step (start [0x1842] [(0, 0x7fffffff), (1, 1)] 0b0000)) [2] =
      some ([0x80000000], 0b1001, []) := by
  decide

theorem test_step_subReg_borrow :
    seen (step (start [0x1A42] [(0, 0), (1, 1)] 0b0000)) [2] =
      some ([0xffffffff], 0b1000, []) := by
  decide

theorem test_step_subReg_overflow :
    seen (step (start [0x1A42] [(0, 0x80000000), (1, 1)] 0b0000)) [2] =
      some ([0x7fffffff], 0b0011, []) := by
  decide

theorem test_step_addImm3_wraps :
    seen (step (start [0x1DC2] [(0, 0xfffffff9)] 0b0000)) [2] =
      some ([0], 0b0110, []) := by
  decide

theorem test_step_subImm3_borrow :
    seen (step (start [0x1E42] [(0, 0)] 0b0000)) [2] =
      some ([0xffffffff], 0b1000, []) := by
  decide

theorem test_step_movImm8_keepsCarryOverflow :
    seen (step (start [0x2080] [(0, 0x55)] 0b0011)) [0, 15] =
      some ([0x80, 0x104], 0b0011, []) := by
  decide

theorem test_step_cmpImm8_equal :
    seen (step (start [0x28FF] [(0, 0xff)] 0b0000)) [0] =
      some ([0xff], 0b0110, []) := by
  decide

theorem test_step_addImm8_wraps :
    seen (step (start [0x30FF] [(0, 0xffffff01)] 0b0000)) [0] =
      some ([0], 0b0110, []) := by
  decide

theorem test_step_subImm8_overflow :
    seen (step (start [0x3801] [(0, 0x80000000)] 0b0000)) [0] =
      some ([0x7fffffff], 0b0011, []) := by
  decide

theorem test_step_andReg :
    seen (step (start [0x4008] [(0, 0xf0f0f0f0), (1, 0x80ff00ff)] 0b0011)) [0] =
      some ([0x80f000f0], 0b1011, []) := by
  decide

theorem test_step_eorReg :
    seen (step (start [0x4048] [(0, 0xaaaaaaaa), (1, 0xaaaaaaaa)] 0b0010)) [0] =
      some ([0], 0b0110, []) := by
  decide

theorem test_step_lslReg_32 :
    seen (step (start [0x4088] [(0, 0x80000001), (1, 0x20)] 0b0000)) [0] =
      some ([0], 0b0110, []) := by
  decide

theorem test_step_lslReg_33 :
    seen (step (start [0x4088] [(0, 0x80000001), (1, 0x21)] 0b0010)) [0] =
      some ([0], 0b0100, []) := by
  decide

theorem test_step_lsrReg_32 :
    seen (step (start [0x40C8] [(0, 0x80000001), (1, 0x20)] 0b0000)) [0] =
      some ([0], 0b0110, []) := by
  decide

theorem test_step_lsrReg_255 :
    seen (step (start [0x40C8] [(0, 0x80000001), (1, 0xffffffff)] 0b0010)) [0] =
      some ([0], 0b0100, []) := by
  decide

theorem test_step_asrReg_40 :
    seen (step (start [0x4108] [(0, 0x80000001), (1, 0x28)] 0b0000)) [0] =
      some ([0xffffffff], 0b1010, []) := by
  decide

theorem test_step_asrReg_1 :
    seen (step (start [0x4108] [(0, 0x80000001), (1, 1)] 0b0000)) [0] =
      some ([0xc0000000], 0b1010, []) := by
  decide

theorem test_step_adcReg :
    seen (step (start [0x4148] [(0, 0xffffffff), (1, 0)] 0b0010)) [0] =
      some ([0], 0b0110, []) := by
  decide

theorem test_step_sbcReg_borrowIn :
    seen (step (start [0x4188] [(0, 5), (1, 5)] 0b0000)) [0] =
      some ([0xffffffff], 0b1000, []) := by
  decide

theorem test_step_sbcReg_noBorrowIn :
    seen (step (start [0x4188] [(0, 5), (1, 5)] 0b0010)) [0] =
      some ([0], 0b0110, []) := by
  decide

theorem test_step_rorReg_stub :
    seen (step (start [0x41C8] [(0, 0x12345678), (1, 4)] 0b1100)) [0, 15] =
      some ([0x12345678, 0x104], 0b1100, []) := by
  decide

theorem test_step_tstReg :
    seen (step (start [0x4208] [(0, 0xf), (1, 0xf0)] 0b0010)) [0] =
      some ([0xf], 0b0110, []) := by
  decide

theorem test_step_negReg_zero :
    seen (step (start [0x4248] [(1, 0)] 0b0000)) [0] =
      some ([0], 0b0110, []) := by
  decide

theorem test_step_negReg_mostNegative :
    seen (step (start [0x4248] [(1, 0x80000000)] 0b0000)) [0] =
      some ([0x80000000], 0b1001, []) := by
  decide

theorem test_step_cmpReg :
    seen (step (start [0x4288] [(0, 0x80000000), (1, 0x7fffffff)] 0b0000)) [0] =
      some ([0x80000000], 0b0011, []) := by
  decide

theorem test_step_cmnReg :
    seen (step (start [0x42C8] [(0, 1), (1, 0xffffffff)] 0b0000)) [0] =
      some ([1], 0b0110, []) := by
  decide

theorem test_step_orrReg :
    seen (step (start [0x4308] [(0, 0x80000000), (1, 1)] 0b0011)) [0] =
      some ([0x80000001], 0b1011, []) := by
  decide

theorem test_step_mulReg_lost :
    seen (step (start [0x4348] [(0, 0x10000), (1, 0x10000)] 0b0011)) [0] =
      some ([0], 0b0111, []) := by
  decide

theorem test_step_mulReg :
    seen (step (start [0x4348] [(0, 0xffffffff), (1, 3)] 0b0000)) [0] =
      some ([0xfffffffd], 0b1000, []) := by
  decide

theorem test_step_bicReg :
    seen (step (start [0x4388] [(0, 0xff), (1, 0xf)] 0b0000)) [0] =
      some ([0xf0], 0b0000, []) := by
  decide

theorem test_step_mvnReg :
    seen (step (start [0x43C8] [(1, 0xffffffff)] 0b0000)) [0] =
      some ([0], 0b0100, []) := by
  decide

theorem test_step_addHi_noFlags :
    seen (step (start [0x4488] [(8, 0xffffffff), (1, 2)] 0b1000)) [8] =
      some ([1], 0b1000, []) := by
  decide

theorem test_step_addHi_toPc :
    seen (step (start [0x4487] [(0, 0x11)] 0b0000)) [15] =
      some ([0x116], 0b0000, []) := by
  decide

theorem test_step_cmpHi :
    seen (step (start [0x4588] [(8, 1), (1, 2)] 0b0000)) [8] =
      some ([1], 0b1000, []) := by
  decide

theorem test_step_movHi :
    seen (step (start [0x4680] [(0, 0x80000000), (8, 1)] 0b0100)) [8] =
      some ([0x80000000], 0b0100, []) := by
  decide

theorem test_step_movHi_toPc :
    seen (step (start [0x4687] [(0, 0x201)] 0b0000)) [15] =
      some ([0x202], 0b0000, []) := by
  decide

theorem test_step_bx :
    seen (step (start [0x4770] [(14, 0x301)] 0b0000)) [15, 14] =
      some ([0x302, 0x301], 0b0000, []) := by
  decide

theorem test_step_bx_pc :
    seen (step (start [0x4778] [] 0b0000)) [15] =
      some ([0x106], 0b0000, []) := by
  decide

theorem test_step_blxReg :
    seen (step (start [0x4798] [(3, 0x2a1)] 0b0000)) [14, 15] =
      some ([0x103, 0x2a2], 0b0000, []) := by
  decide

theorem test_step_blxReg_lr :
    seen (step (start [0x47F0] [(14, 0x301)] 0b0000)) [14, 15] =
      some ([0x103, 0x302], 0b0000, []) := by
  decide

theorem test_step_ldrLit :
    seen (step (start [0x4801, 0x0000, 0x0000, 0x0000, 0x5678, 0x1234] [] 0b0000)) [0, 15] =
      some ([0x12345678, 0x104], 0b0000, []) := by
  decide

theorem test_step_strReg :
    seen (step (start [0x5088] [(0, 0xaabbccdd), (1, 0x20000020), (2, 4)] 0b0000 [(0x20, 0x80c3a5f1), (0x24, 0x11223344)])) [0] [0x20, 0x24] =
      some ([0xaabbccdd], 0b0000, [0x80c3a5f1, 0xaabbccdd]) := by
  decide

theorem test_step_strhReg :
    seen (step (start [0x5288] [(0, 0xaabbccdd), (1, 0x20000020), (2, 4)] 0b0000 [(0x20, 0x80c3a5f1), (0x24, 0x11223344)])) [] [0x20, 0x24] =
      some ([], 0b0000, [0x80c3a5f1, 0x1122ccdd]) := by
  decide

theorem test_step_strbReg :
    seen (step (start [0x5488] [(0, 0xaabbccdd), (1, 0x20000020), (2, 4)] 0b0000 [(0x20, 0x80c3a5f1), (0x24, 0x11223344)])) [] [0x20, 0x24] =
      some ([], 0b0000, [0x80c3a5f1, 0x112233dd]) := by
  decide

theorem test_step_ldrsbReg :
    seen (step (start [0x5688] [(1, 0x20000020), (2, 0)] 0b0000 [(0x20, 0x80c3a5f1), (0x24, 0x11223344)])) [0] =
      some ([0xfffffff1], 0b0000, []) := by
  decide

theorem test_step_ldrReg :
    seen (step (start [0x5888] [(1, 0x20000020), (2, 0)] 0b0000 [(0x20, 0x80c3a5f1), (0x24, 0x11223344)])) [0] =
      some ([0x80c3a5f1], 0b0000, []) := by
  decide

theorem test_step_ldrReg_misaligned :
    seen (step (start [0x5888] [(1, 0x20000020), (2, 1)] 0b0000 [(0x20, 0x80c3a5f1), (0x24, 0x11223344)])) [0] =
      some ([0x4480c3a5], 0b0000, []) := by
  decide

theorem test_step_ldrhReg :
    seen (step (start [0x5A88] [(1, 0x20000020), (2, 0)] 0b0000 [(0x20, 0x80c3a5f1), (0x24, 0x11223344)])) [0] =
      some ([0xa5f1], 0b0000, []) := by
  decide

theorem test_step_ldrbReg :
    seen (step (start [0x5C88] [(1, 0x20000020), (2, 0)] 0b0000 [(0x20, 0x80c3a5f1), (0x24, 0x11223344)])) [0] =
      some ([0xf1], 0b0000, []) := by
  decide

theorem test_step_ldrshReg :
    seen (step (start [0x5E88] [(1, 0x20000020), (2, 2)] 0b0000 [(0x20, 0x80c3a5f1), (0x24, 0x11223344)])) [0] =
      some ([0xffff80c3], 0b0000, []) := by
  decide

theorem test_step_strImm5 :
    seen (step (start [0x6048] [(0, 0xaabbccdd), (1, 0x20000020)] 0b0000 [(0x20, 0x80c3a5f1), (0x24, 0x11223344)])) [] [0x24] =
      some ([], 0b0000, [0xaabbccdd]) := by
  decide

theorem test_step_strImm5_rom :
    seen (step (start [0x6008] [(0, 0x1234), (1, 0x100)] 0b0000)) [15] [0] =
      some ([0x104], 0b0000, [0xffffffff]) := by
  decide

theorem test_step_ldrImm5_far :
    seen (step (start [0x6FC8] [(1, 0x20000020)] 0b0000 [(0x9c, 0xcafef00d)])) [0] =
      some ([0xcafef00d], 0b0000, []) := by
  decide

theorem test_step_ldrImm5_beyondBacking :
    seen (step (start [0x6808] [(1, 0x200003fe)] 0b0000 [(0x3fc, 0xa1b2c3d4)])) [0] =
      some ([0xa1b2], 0b0000, []) := by
  decide

theorem test_step_strbImm5 :
    seen (step (start [0x77C8] [(0, 0x1fe), (1, 0x20000020)] 0b0000)) [] [0x3c] =
      some ([], 0b0000, [0xfeffffff]) := by
  decide

theorem test_step_ldrbImm5 :
    seen (step (start [0x78C8] [(1, 0x20000020)] 0b0000 [(0x20, 0x80c3a5f1), (0x24, 0x11223344)])) [0] =
      some ([0x80], 0b0000, []) := by
  decide

theorem test_step_strhImm5 :
    seen (step (start [0x87C8] [(0, 0x12345678), (1, 0x20000020)] 0b0000)) [] [0x5c] =
      some ([], 0b0000, [0x5678ffff]) := by
  decide

theorem test_step_ldrhImm5 :
    seen (step (start [0x8848] [(1, 0x20000020)] 0b0000 [(0x20, 0x80c3a5f1), (0x24, 0x11223344)])) [0] =
      some ([0x80c3], 0b0000, []) := by
  decide

theorem test_step_strSp :
    seen (step (start [0x9002] [(0, 0x55aa), (13, 0x20000080)] 0b0000)) [13] [0x88] =
      some ([0x20000080], 0b0000, [0x55aa]) := by
  decide

theorem test_step_ldrSp :
    seen (step (start [0x98FF] [(13, 0x20000000)] 0b0000 [(0x3fc, 0x77)])) [0] =
      some ([0x77], 0b0000, []) := by
  decide

theorem test_step_adr :
    seen (step (start [0xA001] [] 0b0000)) [0] =
      some ([0x108], 0b0000, []) := by
  decide

theorem test_step_addRdSp :
    seen (step (start [0xA8FF] [(13, 0x20000003)] 0b0000)) [0] =
      some ([0x200003ff], 0b0000, []) := by
  decide

theorem test_step_addSpImm7 :
    seen (step (start [0xB07F] [(13, 0x20000000)] 0b1111)) [13] =
      some ([0x200001fc], 0b1111, []) := by
  decide

theorem test_step_subSpImm7 :
    seen (step (start [0xB082] [(13, 0x20000000)] 0b0000)) [13] =
      some ([0x1ffffff8], 0b0000, []) := by
  decide

theorem test_step_sxth :
    seen (step (start [0xB208] [(1, 0x12348000)] 0b0000)) [0] =
      some ([0xffff8000], 0b0000, []) := by
  decide

theorem test_step_sxtb :
    seen (step (start [0xB248] [(1, 0x80)] 0b0000)) [0] =
      some ([0xffffff80], 0b0000, []) := by
  decide

theorem test_step_uxth :
    seen (step (start [0xB288] [(1, 0xffff8000)] 0b0000)) [0] =
      some ([0x8000], 0b0000, []) := by
  decide

theorem test_step_uxtb :
    seen (step (start [0xB2C8] [(1, 0xffffff80)] 0b0000)) [0] =
      some ([0x80], 0b0000, []) := by
  decide

theorem test_step_rev :
    seen (step (start [0xBA08] [(1, 0x11223344)] 0b0000)) [0] =
      some ([0x44332211], 0b0000, []) := by
  decide

theorem test_step_rev16 :
    seen (step (start [0xBA48] [(1, 0x11223344)] 0b0000)) [0] =
      some ([0x22114433], 0b0000, []) := by
  decide

theorem test_step_revsh :
    seen (step (start [0xBAC8] [(1, 0x11223380)] 0b0000)) [0] =
      some ([0xffff8033], 0b0000, []) := by
  decide

theorem test_step_push :
    seen (step (start [0xB503] [(0, 0xa), (1, 0xb), (14, 0xc), (13, 0x20000100)] 0b0000)) [13] [0xf0, 0xf4, 0xf8, 0xfc, 0x100] =
      some ([0x200000f4], 0b0000, [0xffffffff, 0xa, 0xb, 0xc, 0xffffffff]) := by
  decide

theorem test_step_push_intoRom :
    seen (step (start [0xB401] [(0, 0x77), (13, 0x20000000)] 0b0000)) [13] [0] =
      some ([0x1ffffffc], 0b0000, [0xffffffff]) := by
  decide

theorem test_step_pop :
    seen (step (start [0xBD03] [(13, 0x200000f4)] 0b0000 [(0xf4, 0xa), (0xf8, 0xb), (0xfc, 0x201)])) [0, 1, 13, 15] =
      some ([0xa, 0xb, 0x20000100, 0x202], 0b0000, []) := by
  decide

theorem test_step_pop_sentinel :
    seen (step (start [0xBD00] [(13, 0x200000fc)] 0b0000 [(0xfc, 0xfffffff9)])) [13, 15] =
      some ([0x20000100, 0xfffffffa], 0b0000, []) := by
  decide

theorem test_step_stmia :
    seen (step (start [0xC006] [(0, 0x20000020), (1, 0x11), (2, 0x22)] 0b0000)) [0] [0x20, 0x24] =
      some ([0x20000028], 0b0000, [0x11, 0x22]) := by
  decide

theorem test_step_stmia_baseInList :
    seen (step (start [0xC107] [(0, 0x10), (1, 0x20000020), (2, 0x22)] 0b0000)) [1] [0x20, 0x24, 0x28] =
      some ([0x2000002c], 0b0000, [0x10, 0x20000020, 0x22]) := by
  decide

theorem test_step_ldmia :
    seen (step (start [0xC806] [(0, 0x20000020)] 0b0000 [(0x20, 0x11), (0x24, 0x22)])) [0, 1, 2] =
      some ([0x20000028, 0x11, 0x22], 0b0000, []) := by
  decide

theorem test_step_ldmia_baseInList :
    seen (step (start [0xC907] [(1, 0x20000020)] 0b0000 [(0x20, 0x11), (0x24, 0x5555), (0x28, 0x33)])) [0, 1, 2] =
      some ([0x11, 0x5555, 0x33], 0b0000, []) := by
  decide

theorem test_step_beq_taken :
    seen (step (start [0xD002] [] 0b0100)) [15] =
      some ([0x10a], 0b0100, []) := by
  decide

theorem test_step_beq_notTaken :
    seen (step (start [0xD002] [] 0b0000)) [15] =
      some ([0x104], 0b0000, []) := by
  decide

theorem test_step_bne_taken :
    seen (step (start [0xD1FC] [] 0b0000)) [15] =
      some ([0xfe], 0b0000, []) := by
  decide

theorem test_step_bne_notTaken :
    seen (step (start [0xD1FC] [] 0b0100)) [15] =
      some ([0x104], 0b0100, []) := by
  decide

theorem test_step_bcs_taken :
    seen (step (start [0xD204] [] 0b0010)) [15] =
      some ([0x10e], 0b0010, []) := by
  decide

theorem test_step_bcs_notTaken :
    seen (step (start [0xD204] [] 0b0000)) [15] =
      some ([0x104], 0b0000, []) := by
  decide

theorem test_step_bcc_taken :
    seen (step (start [0xD304] [] 0b0000)) [15] =
      some ([0x10e], 0b0000, []) := by
  decide

theorem test_step_bcc_notTaken :
    seen (step (start [0xD304] [] 0b0010)) [15] =
      some ([0x104], 0b0010, []) := by
  decide

theorem test_step_bmi_taken :
    seen (step (start [0xD404] [] 0b1000)) [15] =
      some ([0x10e], 0b1000, []) := by
  decide

theorem test_step_bmi_notTaken :
    seen (step (start [0xD404] [] 0b0000)) [15] =
      some ([0x104], 0b0000, []) := by
  decide

theorem test_step_bpl_taken :
    seen (step (start [0xD504] [] 0b0000)) [15] =
      some ([0x10e], 0b0000, []) := by
  decide

theorem test_step_bpl_notTaken :
    seen (step (start [0xD504] [] 0b1000)) [15] =
      some ([0x104], 0b1000, []) := by
  decide

theorem test_step_bvs_taken :
    seen (step (start [0xD604] [] 0b0001)) [15] =
      some ([0x10e], 0b0001, []) := by
  decide

theorem test_step_bvs_notTaken :
    seen (step (start [0xD604] [] 0b0000)) [15] =
      some ([0x104], 0b0000, []) := by
  decide

theorem test_step_bvc_taken :
    seen (step (start [0xD704] [] 0b0000)) [15] =
      some ([0x10e], 0b0000, []) := by
  decide

theorem test_step_bvc_notTaken :
    seen (step (start [0xD704] [] 0b0001)) [15] =
      some ([0x104], 0b0001, []) := by
  decide

theorem test_step_bhi_taken :
    seen (step (start [0xD801] [] 0b0010)) [15] =
      some ([0x108], 0b0010, []) := by
  decide

theorem test_step_bhi_notTaken :
    seen (step (start [0xD801] [] 0b0110)) [15] =
      some ([0x104], 0b0110, []) := by
  decide

theorem test_step_bls_taken :
    seen (step (start [0xD901] [] 0b0110)) [15] =
      some ([0x108], 0b0110, []) := by
  decide

theorem test_step_bls_notTaken :
    seen (step (start [0xD901] [] 0b0010)) [15] =
      some ([0x104], 0b0010, []) := by
  decide

theorem test_step_bge_taken :
    seen (step (start [0xDA7F] [] 0b1001)) [15] =
      some ([0x204], 0b1001, []) := by
  decide

theorem test_step_bge_notTaken :
    seen (step (start [0xDA7F] [] 0b1000)) [15] =
      some ([0x104], 0b1000, []) := by
  decide

theorem test_step_blt_taken :
    seen (step (start [0xDB80] [] 0b1000)) [15] =
      some ([6], 0b1000, []) := by
  decide

theorem test_step_blt_notTaken :
    seen (step (start [0xDB80] [] 0b1001)) [15] =
      some ([0x104], 0b1001, []) := by
  decide

theorem test_step_bgt_taken :
    seen (step (start [0xDC01] [] 0b0000)) [15] =
      some ([0x108], 0b0000, []) := by
  decide

theorem test_step_bgt_notTaken :
    seen (step (start [0xDC01] [] 0b0100)) [15] =
      some ([0x104], 0b0100, []) := by
  decide

theorem test_step_ble_taken :
    seen (step (start [0xDD01] [] 0b0100)) [15] =
      some ([0x108], 0b0100, []) := by
  decide

theorem test_step_ble_notTaken :
    seen (step (start [0xDD01] [] 0b0000)) [15] =
      some ([0x104], 0b0000, []) := by
  decide

theorem test_step_svc_stub :
    seen (step (start [0xDF01] [(0, 1)] 0b1111)) [0, 15] =
      some ([1, 0x104], 0b1111, []) := by
  decide

theorem test_step_b_self :
    seen (step (start [0xE7FE] [] 0b0000)) [15] =
      some ([0x102], 0b0000, []) := by
  decide

theorem test_step_b_farForward :
    seen (step (start [0xE3FF] [] 0b0000)) [15] =
      some ([0x904], 0b0000, []) := by
  decide

theorem test_step_blPrefix :
    seen (step (start [0xF000, 0xF808] [(14, 0x99)] 0b0000)) [14, 15] =
      some ([0x104, 0x104], 0b0000, []) := by
  decide

theorem test_step_blPrefix_backward :
    seen (step (start [0xF7FF, 0xFFFE] [] 0b0000)) [14] =
      some ([0xfffff104], 0b0000, []) := by
  decide

theorem test_step_blSuffix_alone :
    seen (step (start [0xF808] [(14, 0x200)] 0b0000)) [14, 15] =
      some ([0x103, 0x212], 0b0000, []) := by
  decide

theorem test_step_blSuffix_erased :
    seen (step (start [0xFFFF] [(14, 0xffffffff)] 0b0000)) [14, 15] =
      some ([0x103, 0xffe], 0b0000, []) := by
  decide

theorem test_step_mrs_stub :
    seen (step (start [0xF3EF, 0x8010] [(0, 0x55)] 0b0000)) [0, 15] =
      some ([0x55, 0x106], 0b0000, []) := by
  decide

theorem test_step_msr_stub :
    seen (step (start [0xF381, 0x8800] [(1, 0xf0000000)] 0b0000)) [1, 15] =
      some ([0xf0000000, 0x106], 0b0000, []) := by
  decide

theorem test_step_dsb_stub :
    seen (step (start [0xF3BF, 0x8F4F] [] 0b0000)) [15] =
      some ([0x106], 0b0000, []) := by
  decide

theorem test_step_dmb_stub :
    seen (step (start [0xF3BF, 0x8F5F] [] 0b0000)) [15] =
      some ([0x106], 0b0000, []) := by
  decide

theorem test_step_isb_stub :
    seen (step (start [0xF3BF, 0x8F6F] [] 0b0000)) [15] =
      some ([0x106], 0b0000, []) := by
  decide

theorem test_step_unrecognised :
    seen (step (start [0xBE00] [(0, 1)] 0b1010)) [0, 15] =
      some ([1, 0x104], 0b1010, []) := by
  decide

theorem test_step_unrecognised_prefixAlone :
    seen (step (start [0xF000, 0x2000] [(14, 0x99)] 0b0000)) [14, 15] =
      some ([0x99, 0x104], 0b0000, []) := by
  decide

/-! ### Entry, exit, reset, DMA: the worked examples of the spec -/

/-- The state before step 4 of the worked example of 60_exceptions.md R379. -/
def beforeEntry : State :=
  { start [] [(0, 5), (1, 5), (13, 0x20000400), (14, 0xFFFFFFFF), (15, 0x108)] 0b0110 with
    vecTick := 0x201, vecDma := 0x301, tickPending := true }

/-- The state before step 8 of R379. -/
def beforeExit : State :=
  { start [0, 0, 0, 0x3001] [(0, 0x99), (1, 5), (13, 0x200003E0), (14, 0xFFFFFFF8), (15, 0xFFFFFFFA)]
      0b0110 [(0x3E0, 5), (0x3E4, 5), (0x3E8, 0), (0x3EC, 0), (0x3F0, 0), (0x3F4, 0xFFFFFFFF),
        (0x3F8, 0x108), (0x3FC, 0x60000000)] with
    excActive := true, tickPending := true }

theorem test_entry_frame :
    seen (step beforeEntry) [0, 13, 14, 15]
        [0x3E0, 0x3E4, 0x3E8, 0x3EC, 0x3F0, 0x3F4, 0x3F8, 0x3FC] =
      some ([5, 0x200003E0, 0xFFFFFFF8, 0x202], 0b0110,
        [5, 5, 0, 0, 0, 0xFFFFFFFF, 0x108, 0x60000000]) := by
  decide

theorem test_entry_latches :
    (match step beforeEntry with
      | .next t => some (t.excActive, t.tickPending, t.tickCount)
      | _ => none) = some (true, false, 0) := by
  decide

theorem test_entry_dmaFirst :
    seen (step { beforeEntry with dmaPending := true }) [15] = some ([0x302], 0b0110, []) := by
  decide +kernel

theorem test_exit_thenInstruction :
    seen (step beforeExit) [0, 3, 13, 14, 15] =
      some ([6, 0, 0x20000400, 0xFFFFFFFF, 0x10A], 0b0000, []) := by
  decide

theorem test_exit_latches :
    (match step beforeExit with
      | .next t => some (t.excActive, t.tickPending, t.tickCount)
      | _ => none) = some (false, true, 1) := by
  decide

/-- A state with the descriptors of the worked example of R399. -/
def dmaState : State :=
  { start [] [] 0 [(0x100, 0x00040000), (0x104, 0x20000200), (0x108, 0x20000300), (0x10C, 0x20000110),
      (0x130, 0x00030000), (0x134, 0x20000201), (0x138, 0x41000000), (0x13C, 0), (0x200, 0x44332211)] with
    dmaBase := 0x20000100 }

theorem test_dma_copies :
    seen (answer (memWrite 0x41004840 .byte 2 dmaState)) [] [0x300] = some ([], 0, [0x44332211]) := by
  decide

theorem test_dma_chainsAndSignals :
    (match memWrite 0x41004840 .byte 2 dmaState with
      | .ok t => some (t.dmaCurDesc, t.dmaPending)
      | .error _ => none) = some (0x20000110, true) := by
  decide

theorem test_dma_toHandlers :
    (match memWrite 0x41004840 .word 0
        { dmaState with dmaChid := 3, writeHandlers := insertKey 0x41000000 .env dmaState.writeHandlers } with
      | .ok t => some (t.trace, t.dmaCurDesc)
      | .error _ => none) =
      some ([.unmappedWrite 0x41000002, .unmappedWrite 0x41000001, .handlerWrite 0x41000000 0x22], 0) := by
  decide

theorem test_dma_statusAndChid :
    memRead 0x4100484E .byte dmaState = .ok (2, dmaState) ∧
    memRead 0x4100483F .byte dmaState = .ok (0, dmaState.emit (.unmappedRead 0x4100483F)) := by
  decide

theorem test_loadFlash_scenario :
    seen (perform (.loadFlash [0x00, 0x10, 0x00, 0x20, 0x41, 0, 0, 0] 0) State.reset) [0, 13, 14, 15] =
      some ([0, 0x20001000, 0xFFFFFFFF, 0x42], 0, []) := by
  decide

theorem test_loadFlash_shortImage :
    seen (perform (.loadFlash [0x00, 0x10, 0x00, 0x20, 0x41, 0] 0) State.reset) [15] =
      some ([0xFFFF0042], 0, []) := by
  decide

theorem test_withFetchWord_runsNext :
    seen (step (State.reset.withFetchWord 16 0x2080)) [0, 15] = some ([0x80, 4], 0, []) := by
  decide

theorem test_withFetchWord_twoHalfwords :
    seen (step (State.reset.withFetchWord 32 0x8010F3EF)) [0, 15] = some ([0, 6], 0, []) := by
  decide

/-! ### States that meet the hypotheses of the statements -/

open Sys2Proof.Claims

/-- A state with a status stub, the sequencer's registers, and environment handlers at 0x4000_0000 (read)
and 0x5FFF_FFFF (write), whose next call makes four calls into the block. -/
def device : State :=
  { dmaState with
    cfg := { testCfg with statusStubs := [(0x40000800, 0x12345678)] }
    regs := Vector.replicate 16 0x20000010
    readHandlers := [(0x40000000, .env), (0x4100484E, .dmaStatus)]
    writeHandlers := [(0x41004834, .dmaBase), (0x4100483F, .dmaChid), (0x41004840, .dmaTrigger),
      (0x5FFFFFFF, .env)]
    env := [⟨[.read 0x41004800 .word, .write 0x20000010 .half 0xBEEF, .signalDma, .setReg 3 7,
      .setFlag .c true], 0x1234⟩] }

/-- The last addresses of ROM and RAM, their first ones, and the first and last unmodelled ones. -/
theorem witness_plainAddresses :
    ¬ inMmio 0x00000000 ∧ ¬ inMmio 0x1FFFFFFF ∧ ¬ inMmio 0x20000000 ∧ ¬ inMmio 0x3FFFFFFF ∧
    ¬ inMmio 0x60000000 ∧ ¬ inMmio 0xFFFFFFFF ∧ Memory.wf device.ram := by
  decide

/-- The readable kinds of address: backed and unbacked memory, the first and last MMIO addresses, a stub,
the status register, an environment handler with calls, and one beyond the listed entries. -/
theorem witness_reads :
    (readOf device 0x1FFFFFFF .word).isSome ∧ (readOf device 0x3FFFFFFF .half).isSome ∧
    (readOf device 0x40000000 .word).isSome ∧ (readOf device 0x40000800 .byte).isSome ∧
    (readOf device 0x4100484E .half).isSome ∧ (readOf device 0x5FFFFFFF .byte).isSome ∧
    (readOf device 0x60000000 .word).isSome ∧
    (readOf { device with env := [] } 0x40000000 .word).isSome := by
  decide

/-- The writable kinds of address. -/
theorem witness_writes :
    (writeOf device 0x1FFFFFFF .word 1).isSome ∧ (writeOf device 0x3FFFFFFF .half 1).isSome ∧
    (writeOf device 0x40000000 .word 1).isSome ∧ (writeOf device 0x41004834 .word 1).isSome ∧
    (writeOf device 0x4100483F .byte 1).isSome ∧ (writeOf device 0x41004840 .byte 2).isSome ∧
    (writeOf device 0x5FFFFFFF .byte 1).isSome ∧ (writeOf device 0x60000000 .word 1).isSome ∧
    (writeOf { device with env := [] } 0x5FFFFFFF .byte 1).isSome := by
  decide

theorem witness_MemReadFollowsRule :
    readOf device 0x4100484E .byte = some (2, device) ∧ ¬ inMmio 0x20000000 := by
  decide

theorem witness_MemWriteFollowsRule :
    writeOf device 0x41004834 .half 0x12345678 = some { device with dmaBase := 0x5678 } := by
  decide

/-- The first and the last words inside RAM. -/
theorem witness_RamReadsBackWhatWasWritten :
    Memory.wf device.ram ∧ ramHolds device 0x20000000 4 ∧ ramHolds device 0x200003FC 4 := by
  decide

theorem witness_NestingBoundOnlyAddsAnswers :
    1 ≤ 2 ∧ access 1 (.read 0x4100484E .byte) device = .ok (2, device) := by
  decide

/-- A load outside MMIO, and one each from a stub, the status register, an unmapped address and a
handler. -/
theorem witness_LoadsFollowRules :
    ¬ inMmio (x (start [] [(1, 0x20000000), (2, 0x1FFFFFFF)] 0) (low 1) +
      x (start [] [(1, 0x20000000), (2, 0x1FFFFFFF)] 0) (low 2)) ∧
    (memRead (x device (low 1) + x device (low 2)) .word device).toOption.isSome ∧
    (memRead 0x40000800 .word { device with regs := Vector.replicate 16 0x20000400 }).toOption.isSome ∧
    (memRead 0x40000000 .word { device with regs := Vector.replicate 16 0x20000000 }).toOption.isSome := by
  decide

/-- A store in RAM, one in ROM, one unmodelled, and one each at the kinds of MMIO address. -/
theorem witness_StoresFollowRules :
    ¬ inMmio (device.reg (low 1) + immTimes4 (31 : BitVec 5)) ∧ Memory.wf device.ram ∧
    ¬ inMmio ((start [] [] 0).reg (low 1) + immZext (0 : BitVec 5)) ∧
    (memWrite 0x40000000 .word 0
      { device with regs := Vector.replicate 16 0x20000000 }).toOption.isSome := by
  decide

theorem witness_ByteReverses :
    x device (low 0) = (0x20 : Byte) ++ (0x00 : Byte) ++ (0x00 : Byte) ++ (0x10 : Byte) := by
  decide

/-- A stack of 0x20 bytes at the very start of RAM, an empty list at its end, and a stack in ROM. -/
theorem witness_PushFollowsRule :
    ramHolds device (0x20000020 - 32) 32 ∧ Memory.wf device.ram ∧ ramHolds device 0x20000400 0 ∧
    (writeAll [0, 1, 14] 0x200003F4 device).isSome ∧ (writeAll [0] 0x1FFFFFFC device).isSome := by
  decide

theorem witness_PopFollowsRule :
    (readAll [0, 7] (x device 13) device).isSome ∧ (readAll [] (x device 13) device) = some device ∧
    (readOf device (x device 13 + 4) .word).isSome := by
  decide

theorem witness_StmiaFollowsRule :
    ramHolds device (x device (low 7)) 32 ∧ Memory.wf device.ram ∧
    (writeAll [0, 7] (x device (low 7)) device).isSome := by
  decide

theorem witness_LdmiaFollowsRule : (readAll [0, 1, 2] (x device (low 1)) device).isSome := by
  decide

/-- The last stack that still lies in RAM; and the state right after the PUSH is one that the POP may
start from. -/
theorem witness_PushPopRoundTrip :
    let s := start [] [(13, 0x20000400)] 0
    Memory.wf s.ram ∧ ramHolds s (x s 13 - 32) 32 ∧
    (match exec (.push 0xFF false) s with
      | .next t => some (t.cfg, x t 13)
      | _ => none) = some (s.cfg, 0x200003E0) := by
  decide

theorem witness_LongBranchPair : x (start [] [(15, 0x104)] 0) 15 = 0x100 + 4 := by decide

theorem witness_ExceptionEntryFollowsRule :
    (entered 0x201 beforeEntry).isSome ∧
    (entered 0x201 { beforeEntry with regs := Vector.replicate 16 0 }).isSome := by
  decide

/-- The topmost stack in RAM and the lowest one. -/
theorem witness_ExceptionEntryFrame :
    Memory.wf beforeEntry.ram ∧ ramHolds beforeEntry (x beforeEntry 13 - 32) 32 ∧
    ramHolds beforeEntry 0x20000000 32 := by
  decide

theorem witness_ExceptionExitFollowsRule : (exited beforeExit).isSome := by decide

/-- Before the entry, and right after it: the state after the entry is one the exit may start from. -/
theorem witness_ExceptionRoundTrip :
    Memory.wf beforeEntry.ram ∧ ramHolds beforeEntry (x beforeEntry 13 - 32) 32 ∧
    (x beforeEntry 15).toNat % 2 = 0 ∧
    (match exceptionEntry 0x201 beforeEntry with
      | .ok t => some (t.cfg, x t 13)
      | .error _ => none) = some (beforeEntry.cfg, x beforeEntry 13 - 32) := by
  decide

/-- A pending transfer, a pending tick, and neither. -/
theorem witness_InterruptCheck :
    beforeEntry.excActive = false ∧ beforeEntry.dmaPending = false ∧ beforeEntry.tickPending = true ∧
    ({ beforeEntry with dmaPending := true } : State).dmaPending = true ∧
    noEntry { beforeEntry with tickPending := false } ∧ noEntry { beforeEntry with excActive := true } ∧
    address beforeEntry ≠ 0xFFFFFFF8 := by
  decide

/-- One exit, away from the sentinel afterwards. -/
theorem witness_SentinelExitsThenRuns :
    noEntry beforeExit ∧ 1 ≤ exitFuel ∧ ∃ t, Exits 1 beforeExit t ∧ address t ≠ 0xFFFFFFF8 := by
  refine ⟨by decide, by decide, ?_⟩
  have h : (exited beforeExit).isSome := by decide
  obtain ⟨t, ht⟩ := Option.isSome_iff_exists.mp h
  refine ⟨note t .exited, .more (by decide) ht (.none _), ?_⟩
  have h' : (exited beforeExit).map address = some 0x106 := by decide
  rw [ht] at h'
  have h'' : address t = 0x106 := by simpa using h'
  show address t ≠ 0xFFFFFFF8
  rw [h'']
  decide

/-- Each register of the sequencer, and an unmapped read of one. -/
theorem witness_DmaRegistersFollowRules :
    inMmio 0x4100483F ∧ heldAt device.writeHandlers 0x4100483F = some .dmaChid ∧
    inMmio 0x41004834 ∧ heldAt device.writeHandlers 0x41004834 = some .dmaBase ∧
    inMmio 0x41004840 ∧ heldAt device.writeHandlers 0x41004840 = some .dmaTrigger ∧
    (transferred device).isSome ∧ heldAt device.cfg.statusStubs 0x4100484E = none ∧
    heldAt device.readHandlers 0x4100484E = some .dmaStatus ∧
    heldAt device.cfg.statusStubs 0x41004840 = none ∧ heldAt device.readHandlers 0x41004840 = none := by
  decide

/-- The descriptor of R399. -/
theorem witness_DmaTransferCopiesBytes :
    inMmio 0x41004840 ∧ heldAt dmaState.writeHandlers 0x41004840 = some .dmaTrigger ∧
    Memory.wf dmaState.ram ∧ descriptor dmaState = 0x20000100 ∧
    ¬ inMmio 0x20000102 ∧ plainAt dmaState 0x20000102 .half = 4 ∧
    ¬ inMmio 0x20000104 ∧ plainAt dmaState 0x20000104 .word = 0x20000200 ∧
    ¬ inMmio 0x20000108 ∧ plainAt dmaState 0x20000108 .word = 0x20000300 ∧
    ¬ inMmio 0x2000010C ∧ plainAt dmaState 0x2000010C .word = 0x20000110 ∧
    ramHolds dmaState 0x20000300 4 ∧ 0x20000200 + 4 ≤ 0x40000000 ∧ 0x20000200 + 4 ≤ 0x20000300 := by
  decide

/-- A descriptor whose destination is the trigger. -/
theorem witness_SelfTriggeringTransferHangs :
    let s := start [] [] 0 [(0, 0x00010000), (4, 0x20000000), (8, 0x41004840), (12, 0)]
    let t := { s with dmaBase := 0x20000000 }
    inMmio 0x41004840 ∧ heldAt t.writeHandlers 0x41004840 = some .dmaTrigger ∧
    ¬ inMmio (descriptor t + t.cfg.dmaCntOff) ∧ plainAt t (descriptor t + t.cfg.dmaCntOff) .half ≠ 0 ∧
    ¬ inMmio (descriptor t + t.cfg.dmaSrcOff) ∧
    plainAt t (descriptor t + t.cfg.dmaSrcOff) .word = 0x20000000 ∧ ¬ inMmio 0x20000000 ∧
    ¬ inMmio (descriptor t + t.cfg.dmaDstOff) ∧
    plainAt t (descriptor t + t.cfg.dmaDstOff) .word = 0x41004840 ∧
    ¬ inMmio (descriptor t + t.cfg.dmaNextOff) := by
  decide

/-- A move at address 0x100. -/
theorem witness_StepRunsDecodedInstruction :
    noEntry (start [0x2080] [] 0) ∧ address (start [0x2080] [] 0) ≠ 0xFFFFFFF8 ∧
    cacheAt (start [0x2080] [] 0) (address (start [0x2080] [] 0)) = some (.movImm8 0 128) := by
  decide

/-- An odd address, the first address beyond ROM, and an unrecognised halfword. -/
theorem witness_UnrecognisedStepIsNoOp :
    noEntry (start [] [(15, 0x103)] 0) ∧ (address (start [] [(15, 0x103)] 0)).toNat % 2 = 1 ∧
    (address (start [] [(15, 0x103)] 0)) ≠ 0xFFFFFFF8 ∧
    (start [] [(15, 0x402)] 0).cfg.romSize ≤ (address (start [] [(15, 0x402)] 0)).toNat ∧
    cacheAt (start [0xBE00] [] 0) (address (start [0xBE00] [] 0)) = none := by
  decide

/-- An instruction step short of the threshold, one that reaches it, and an entry. -/
theorem witness_TicksCountExecutedSteps :
    noEntry (start [0x2080] [] 0) ∧ (seen (step (start [0x2080] [] 0)) []).isSome ∧
    (seen (step { start [0x2080] [] 0 with tickCount := 999 }) []).isSome ∧
    ¬ noEntry beforeEntry ∧ (seen (step beforeEntry) []).isSome := by
  decide

/-- An entry, an exit, and an ordinary step. -/
theorem witness_OnlyEntryAndExitChangeMode :
    (seen (step beforeEntry) []).isSome ∧ ¬ noEntry beforeEntry ∧
    (seen (step beforeExit) []).isSome ∧ noEntry beforeExit ∧ address beforeExit = 0xFFFFFFF8 ∧
    (seen (step (start [0x2080] [] 0)) []).isSome ∧ noEntry (start [0x2080] [] 0) ∧
    address (start [0x2080] [] 0) ≠ 0xFFFFFFF8 := by
  decide

/-- Both bits wait while a handler is active; the tick waits for the transfer. -/
theorem witness_PendingUntilServiced :
    (seen (step { start [0x2080] [] 0 with
      excActive := true, dmaPending := true, tickPending := true }) []).isSome ∧
    (seen (step { beforeEntry with dmaPending := true }) []).isSome ∧ beforeEntry.tickPending = true := by
  decide +kernel

/-- A state whose descriptor names the trigger as destination, and `x[1]` the trigger. -/
def selfTriggering : State :=
  { start [] [(1, 0x41004840)] 0 [(0, 0x00010000), (4, 0x20000000), (8, 0x41004840), (12, 0)] with
    dmaBase := 0x20000000 }

/-- Whatever the bound, the transfer triggers itself again before it ends. -/
theorem selfTriggering_nests (n : Nat) :
    ∀ w v, access n (.write 0x41004840 w v) selfTriggering = .error .accessHang := by
  induction n with
  | zero => intros; rfl
  | succ n ih =>
    intro w v
    rw [access_succ, accessWith_write_mmio _ _ _ _ (by decide), mmioWrite_trigger _ _ (by decide)]
    cases n with
    | zero => rfl
    | succ n =>
      have read : ∀ {a : Word} {w : Width} {r : Word}, region a ≠ .mmio →
          plainRead selfTriggering a w = r →
          busRead (access (n + 1)) a w selfTriggering = .ok (r, selfTriggering) :=
        fun h hr => hr ▸ accessWith_read_plain _ _ _ h
      have h0 := read (a := descAddr selfTriggering + selfTriggering.cfg.dmaCntOff) (w := .half)
        (r := 1) (by decide) (by decide)
      have h1 := read (a := descAddr selfTriggering + selfTriggering.cfg.dmaSrcOff) (w := .word)
        (r := 0x20000000) (by decide) (by decide)
      have h2 := read (a := descAddr selfTriggering + selfTriggering.cfg.dmaDstOff) (w := .word)
        (r := 0x41004840) (by decide) (by decide)
      have h3 := read (a := descAddr selfTriggering + selfTriggering.cfg.dmaNextOff) (w := .word)
        (r := 0) (by decide) (by decide)
      have h4 := read (a := 0x20000000) (w := .byte) (r := 0) (by decide) (by decide)
      unfold dmaTransfer
      rw [show selfTriggering.cfg.dmaCntWidth = .half from rfl]
      simp only [h0, h1, h2, h3, Except.bind]
      rw [show (1 : Word).toNat = 0 + 1 from rfl]
      simp only [copyBytes, h4, busWrite, ih, Except.bind, Except.map]

/-- An instruction that completes, and one that hangs, by name: a byte store to the trigger whose
transfer ends on the trigger. -/
theorem witness_InstructionsRaiseNothing :
    (seen (exec (.addReg 0 1 2) device) []).isSome ∧
    exec (.strbImm5 0 1 0) selfTriggering = .fault .accessHang := by
  refine ⟨by decide, ?_⟩
  have h : memWrite 0x41004840 .byte 0 selfTriggering = .error .accessHang := by
    unfold memWrite busWrite
    rw [selfTriggering_nests]
    rfl
  show answer (memWrite 0x41004840 .byte 0 selfTriggering) = _
  rw [h]
  rfl

theorem witness_OnlyNamedRegistersChange :
    (start [] [] 0).env = [] ∧ (seen (exec (.ldmia 1 0b00000101) (start [] [] 0)) []).isSome ∧
    (3 : Reg) ∉ writes (.ldmia 1 0b00000101) := by
  decide

theorem witness_OnlyNamedFlagsChange :
    (start [] [] 0).env = [] ∧ (seen (exec (.lslImm 0 1 4) (start [] [] 0)) []).isSome ∧
    flagClass (.lslImm 0 1 4) ≠ .all ∧ (seen (exec (.andReg 0 1) (start [] [] 0)) []).isSome ∧
    flagClass (.andReg 0 1) = .nz ∧ (seen (exec (.movHi 0 1) (start [] [] 0)) []).isSome ∧
    flagClass (.movHi 0 1) = .none := by
  decide

theorem witness_StepKeepsCodeVectorsAndRegistry : (seen (step beforeExit) []).isSome := by decide

theorem witness_StepEndsWithoutHandlers :
    let s := { start [0x2080] [] 0 with writeHandlers := [(0x41004834, .dmaBase)] }
    (∀ c ∈ s.readHandlers, c.2 ≠ .env) ∧ ∀ c ∈ s.writeHandlers, c.2 ≠ .env ∧ c.2 ≠ .dmaTrigger := by
  decide

/-- A BL prefix before a suffix, and another instruction before nothing. -/
theorem witness_DecodeInvertsEncode :
    wellFormed (.blPrefix 1) = true ∧ admitsNext (.blPrefix 1) (peekHalf [0x00, 0xF8]) = true ∧
    wellFormed (.movImm8 7 0) = true ∧ admitsNext (.movImm8 7 0) (peekHalf []) = true := by
  decide

/-- A branch-exchange with ignored bits set, a two-halfword instruction, and another. -/
theorem witness_EncodeInvertsDecode :
    decode 0x4707 0 = .ok (.bx 0) ∧ decode 0xF3EF 0x8FFF = .ok (.mrs 15 255) ∧
    decode 0xFFFF 0 = .ok (.blSuffix 0x7FF) := by
  decide

/-- Offset 0, and a table that ends just below MMIO. -/
theorem witness_ResetFollowsRule :
    (¬ inMmio 0 ∧ ¬ inMmio (0 + 4) ∧ ¬ inMmio (0 + 0x3C) ∧ ¬ inMmio (0 + 0x58)) ∧
    (¬ inMmio 0x3FFFFFA0 ∧ ¬ inMmio (0x3FFFFFA0 + 4) ∧ ¬ inMmio (0x3FFFFFA0 + 0x3C) ∧
      ¬ inMmio (0x3FFFFFA0 + 0x58)) := by
  decide

theorem witness_LoadFlashForgetsThePast :
    (start [0x2080] [(3, 9)] 0).cfg = dmaState.cfg ∧ ¬ inMmio 0 ∧ ¬ inMmio (0 + 4) ∧
    ¬ inMmio (0 + 0x3C) ∧ ¬ inMmio (0 + 0x58) := by
  decide

theorem witness_LastRegistrationWins :
    risingKeys device.readHandlers ∧ risingKeys device.writeHandlers := by
  decide

theorem witness_configOk : configOk testCfg := by
  refine ⟨by decide, by decide, by decide, by decide, by decide, by decide, by decide, by decide, ?_⟩
  simp [testCfg, defaultConfig, mmioBase, mmioLimit]

/-- The state invariant holds of a state with contents in both memories. -/
theorem witness_stateOk : StateOk (start [0x2080] [] 0 [(0x20, 0x80C3A5F1)]) :=
  ⟨witness_configOk, by decide, by decide, by decide, by decide, by decide, by decide, by decide⟩

theorem witness_StepKeepsStateOk :
    StateOk (start [0x2080] [] 0 [(0x20, 0x80C3A5F1)]) ∧
    (seen (step (start [0x2080] [] 0 [(0x20, 0x80C3A5F1)])) []).isSome :=
  ⟨witness_stateOk, by decide⟩

theorem witness_CommandsKeepStateOk :
    StateOk (start [0x2080] [] 0 [(0x20, 0x80C3A5F1)]) ∧
    (seen (perform (.loadFlash [1, 2, 3] 0x3FE) (start [0x2080] [] 0 [(0x20, 0x80C3A5F1)])) []).isSome :=
  ⟨witness_stateOk, by decide⟩

end Sys2Proof.Tests
end

section
/-! # 41_alu_flags.md: the adder (R160) and the flags made of it (R162) -/

namespace Sys2Proof.Proofs

open Sys2Proof Sys2Proof.Machine Sys2Proof.Claims

/-- The model reads the sign of a word as `msb`, the spec as bit 31. -/
theorem word_msb (v : Word) : v.msb = v.getLsbD 31 := BitVec.msb_eq_getLsbD_last v

/-- The model compares a word with 0, the rule its unsigned value. -/
theorem word_beq_zero (v : Word) : (v == 0) = decide (v.toNat = 0) := by
  rw [beq_eq_decide, decide_eq_decide, BitVec.toNat_eq]
  rfl

/-- R160: the model's adder answers the rule's three outputs. -/
theorem addWithCarry_eq_adder (a b : Word) (cin : Bool) :
    addWithCarry a b cin =
      { result := (adder a b cin).1, carry := (adder a b cin).2.1, overflow := (adder a b cin).2.2 } := by
  have hcin : cin.toNat = if cin then 1 else 0 := by cases cin <;> rfl
  have hmod (n : Nat) : BitVec.ofNat 32 (n % 2 ^ 32) = BitVec.ofNat 32 n :=
    BitVec.eq_of_toNat_eq (by simp only [BitVec.toNat_ofNat, Nat.mod_mod])
  simp only [addWithCarry, adder, hcin, hmod, word_msb, gt_iff_lt]

/-- The unbounded sum is below 2^33, so that it exceeds 2^32 - 1 exactly when bit 32 is set. -/
theorem addWithCarry_carry_eq_bit (a b : Word) (cin : Bool) :
    (addWithCarry a b cin).carry =
      (BitVec.ofNat 33 (a.toNat + b.toNat + cin.toNat)).getLsbD 32 := by
  have hsum : a.toNat + b.toNat + cin.toNat < 2 ^ 33 := by
    have ha := a.isLt
    have hb := b.isLt
    have hc := cin.toNat_lt
    omega
  calc (addWithCarry a b cin).carry
      = decide (2 ^ 32 ≤ a.toNat + b.toNat + cin.toNat) := rfl
    _ = (BitVec.ofNat 33 (a.toNat + b.toNat + cin.toNat)).msb := by
      rw [BitVec.msb_eq_decide, BitVec.toNat_ofNat, Nat.mod_eq_of_lt hsum]
    _ = (BitVec.ofNat 33 (a.toNat + b.toNat + cin.toNat)).getLsbD 32 :=
      BitVec.msb_eq_getLsbD_last _

/-- R162: N is bit 31 of the result, Z says that it is 0, and C and V are the adder's. -/
theorem setNZCV_eq (x : Sum) :
    setNZCV x = ⟨x.result.getLsbD 31, decide (x.result.toNat = 0), x.carry, x.overflow⟩ := by
  rw [setNZCV, word_msb, word_beq_zero]

/-- Settles O1: the adder's outputs agree with R160's, its carry is bit 32 of the sum, and the flags
are read off those outputs. -/
theorem adderFollowsRule : Obligations.AdderFollowsRule := by
  intro a b cin
  have hadd := addWithCarry_eq_adder a b cin
  refine ⟨congrArg Sum.result hadd, congrArg Sum.carry hadd, addWithCarry_carry_eq_bit a b cin,
    congrArg Sum.overflow hadd, ?flags⟩
  case flags => rw [setNZCV_eq, hadd]

end Sys2Proof.Proofs
end

section
/-! # From the diagrams of 30_encoding.md to the decoder: a statement writes the halfword field by
field, `encode` writes it as a sum; the round trip of each instruction does the rest -/

namespace Sys2Proof.Proofs

open Sys2Proof Sys2Proof.Machine Sys2Proof.Claims Sys2Proof.Laws

@[simp] theorem low_val (f : BitVec 3) : (low f).val = f.toNat := rfl

/-- A 3-bit field names a low register (R102). -/
@[simp] theorem isLow_low (f : BitVec 3) : isLow (low f) = true := decide_eq_true f.isLt

/-- Placing a field below others is a sum, because the places do not overlap. -/
theorem toNat_append_eq_add {m n : Nat} (a : BitVec m) (b : BitVec n) :
    (a ++ b).toNat = a.toNat * 2 ^ n + b.toNat := by
  rw [BitVec.toNat_append, ← Nat.shiftLeft_add_eq_or_of_lt b.isLt, Nat.shiftLeft_eq]

/-- The halfword of an instruction that has one halfword, names low registers and admits every
successor decodes to it. -/
theorem decodesTo_of_encode {hw : Half} {i : Instr} {fields : List (BitVec 3)}
    (roundTrip : EncodingRoundTrip.Statement i) (operands : lowOperands i = fields.map low)
    (admits : ∀ next, admitsNext i next = true) (encoded : encode i = [hw]) : decodesTo hw i := by
  intro next
  have wf : wellFormed i = true := by simp [wellFormed, operands]
  obtain ⟨first, rest, hsplit, hdecode⟩ := roundTrip wf next (admits next)
  obtain ⟨rfl, rfl⟩ : hw = first ∧ [] = rest := by simpa [encoded] using hsplit
  exact hdecode

/-- Format F1 (R103): `ooooo iiiii mmm ddd`. -/
theorem layout_F1 (op imm5 : BitVec 5) (m d : BitVec 3) :
    op ++ imm5 ++ m ++ d =
      asHalf (op.toNat * 2 ^ 11 + putReg (low d) 0 + putReg (low m) 3 + putImm imm5 6) := by
  have hop := op.isLt
  have himm := imm5.isLt
  have hm := m.isLt
  have hd := d.isLt
  apply BitVec.eq_of_toNat_eq
  simp only [putReg, putImm, low_val]
  rw [asHalf_toNat (by omega)]
  simp only [toNat_append_eq_add]
  omega

/-- Format F2 (R104): `ooooooo mmm nnn ddd`, where `mmm` is a register or an immediate. -/
theorem layout_F2 (op : BitVec 7) (m n d : BitVec 3) :
    op ++ m ++ n ++ d =
      asHalf (op.toNat * 2 ^ 9 + putReg (low d) 0 + putReg (low n) 3 + putImm m 6) := by
  have hop := op.isLt
  have hm := m.isLt
  have hn := n.isLt
  have hd := d.isLt
  apply BitVec.eq_of_toNat_eq
  simp only [putReg, putImm, low_val]
  rw [asHalf_toNat (by omega)]
  simp only [toNat_append_eq_add]
  omega

/-- Format F3 (R105): `ooooo ddd iiiiiiii`. -/
theorem layout_F3 (op : BitVec 5) (d : BitVec 3) (imm8 : BitVec 8) :
    op ++ d ++ imm8 = asHalf (op.toNat * 2 ^ 11 + putReg (low d) 8 + putImm imm8 0) := by
  have hop := op.isLt
  have hd := d.isLt
  have himm := imm8.isLt
  apply BitVec.eq_of_toNat_eq
  simp only [putReg, putImm, low_val]
  rw [asHalf_toNat (by omega)]
  simp only [toNat_append_eq_add]
  omega

end Sys2Proof.Proofs
end

section
/-! # 41_alu_flags.md: the shapes of an answer (R162) and the shifts (R163, R164), as the rules -/

namespace Sys2Proof.Proofs

open Sys2Proof Sys2Proof.Machine Sys2Proof.Claims

/-- R162: N is bit 31 of the result, Z says that it is 0, and C and V are kept. -/
theorem setNZ_eq (f : Flags) (r : Word) :
    setNZ f r = ⟨r.getLsbD 31, decide (r.toNat = 0), f.c, f.v⟩ := by
  rw [setNZ, word_msb, word_beq_zero]

/-- R163: as `setNZ_eq`, and C is the shifter's carry. -/
theorem setNZC_eq (f : Flags) (r : Word) (c : Bool) :
    setNZC f r c = ⟨r.getLsbD 31, decide (r.toNat = 0), c, f.v⟩ := by
  rw [setNZC, word_msb, word_beq_zero]

theorem compareSum_addWithCarry (a b : Word) (cin : Bool) (s : State) :
    compareSum (addWithCarry a b cin) s = .next (flagSum s (adder a b cin)) := by
  rw [compareSum, setNZCV_eq, addWithCarry_eq_adder]
  rfl

theorem writeSum_addWithCarry (rd : Reg) (a b : Word) (cin : Bool) (s : State) :
    writeSum rd (addWithCarry a b cin) s = .next (putSum s rd (adder a b cin)) := by
  rw [writeSum, setNZCV_eq, addWithCarry_eq_adder]
  rfl

theorem writeLogical_eq (rd : Reg) (r : Word) (s : State) :
    writeLogical rd r s = .next (putNZ s rd r) := by
  rw [writeLogical, setNZ_eq]
  rfl

theorem writeShift_eq (rd : Reg) (y : Word × Bool) (s : State) :
    writeShift rd ⟨y.1, y.2⟩ s = .next (putNZC s rd y) := by
  rw [writeShift, setNZC_eq]
  rfl

/-- R163, R164 for LSL. The model shifts by 32 as by less, the rule names that amount apart. -/
theorem shiftLeft_eq_lslBy (v : Word) (n : Nat) (cold : Bool) :
    shiftLeft v n cold = ⟨(lslBy v n cold).1, (lslBy v n cold).2⟩ := by
  obtain rfl | ⟨hpos, hbelow⟩ | rfl | habove : n = 0 ∨ (0 < n ∧ n ≤ 31) ∨ n = 32 ∨ 32 < n := by
    omega
  · rfl
  · have hresult : v <<< n = BitVec.ofNat 32 (v.toNat * 2 ^ n) := by
      rw [← Nat.shiftLeft_eq]
      rfl
    simp [shiftLeft, lslBy, hresult, hpos.ne', hbelow, show n ≤ 32 by omega]
  · simp [shiftLeft, lslBy]
  · simp [shiftLeft, lslBy, show n ≠ 0 by omega, show ¬ n ≤ 32 by omega, show ¬ n ≤ 31 by omega,
      habove.ne']

/-- R163, R164 for LSR: as `shiftLeft_eq_lslBy`, with the shift as a division. -/
theorem shiftRight_eq_lsrBy (v : Word) (n : Nat) (cold : Bool) :
    shiftRight v n cold = ⟨(lsrBy v n cold).1, (lsrBy v n cold).2⟩ := by
  obtain rfl | ⟨hpos, hbelow⟩ | rfl | habove : n = 0 ∨ (0 < n ∧ n ≤ 31) ∨ n = 32 ∨ 32 < n := by
    omega
  · rfl
  · have hresult : v >>> n = BitVec.ofNat 32 (v.toNat / 2 ^ n) := by
      rw [← Nat.shiftRight_eq_div_pow, ← BitVec.toNat_ushiftRight, BitVec.ofNat_toNat,
        BitVec.setWidth_eq]
    simp [shiftRight, lsrBy, hresult, hpos.ne', hbelow, show n ≤ 32 by omega]
  · simp [shiftRight, lsrBy, BitVec.ushiftRight_eq_zero]
  · simp [shiftRight, lsrBy, show n ≠ 0 by omega, show ¬ n ≤ 32 by omega, show ¬ n ≤ 31 by omega,
      habove.ne']

/-- R163, R164 for ASR: the model's arithmetic shift is the rule's division of the signed value,
rounding down; from 32 places on both answer copies of the sign. -/
theorem shiftRightArith_eq_asrBy (v : Word) (n : Nat) (cold : Bool) :
    shiftRightArith v n cold = ⟨(asrBy v n cold).1, (asrBy v n cold).2⟩ := by
  obtain rfl | ⟨hpos, hbelow⟩ | habove : n = 0 ∨ (0 < n ∧ n ≤ 31) ∨ 31 < n := by omega
  · rfl
  · have hresult : v.sshiftRight n = BitVec.ofInt 32 (v.toInt / 2 ^ n) := by
      rw [BitVec.sshiftRight, Int.shiftRight_eq_div_pow]
      norm_cast
    simp [shiftRightArith, asrBy, hresult, hpos.ne', hbelow, show n < 32 by omega]
  · simp [shiftRightArith, asrBy, word_msb, show n ≠ 0 by omega, show ¬ n < 32 by omega,
      show ¬ n ≤ 31 by omega]

/-- R122: an unsigned immediate as a word. -/
theorem immZext_eq {n : Nat} (imm : BitVec n) : immZext imm = BitVec.ofNat 32 imm.toNat :=
  (BitVec.ofNat_toNat 32 imm).symm

end Sys2Proof.Proofs
end

section
/-! # 42_shift_add_sub_mov_imm.md: formats F1, F2 and F3 -/

namespace Sys2Proof.Proofs

open Sys2Proof Sys2Proof.Machine Sys2Proof.Claims Sys2Proof.Laws

/-- R103: an instruction whose encoding has the places of F1 is what the diagram's halfword decodes
to. -/
theorem decodesTo_F1 {op imm5 : BitVec 5} {m d : BitVec 3} {i : Instr}
    (roundTrip : EncodingRoundTrip.Statement i) (operands : lowOperands i = [low d, low m])
    (admits : ∀ next, admitsNext i next = true)
    (encoded : encode i =
      [asHalf (op.toNat * 2 ^ 11 + putReg (low d) 0 + putReg (low m) 3 + putImm imm5 6)]) :
    decodesTo (op ++ imm5 ++ m ++ d) i :=
  decodesTo_of_encode (fields := [d, m]) roundTrip operands admits (by rw [encoded, layout_F1])

/-- R104: the same for F2, whose uppermost 3-bit field is a register or an immediate. -/
theorem decodesTo_F2 {op : BitVec 7} {m n d : BitVec 3} {i : Instr} {fields : List (BitVec 3)}
    (roundTrip : EncodingRoundTrip.Statement i) (operands : lowOperands i = fields.map low)
    (admits : ∀ next, admitsNext i next = true)
    (encoded : encode i =
      [asHalf (op.toNat * 2 ^ 9 + putReg (low d) 0 + putReg (low n) 3 + putImm m 6)]) :
    decodesTo (op ++ m ++ n ++ d) i :=
  decodesTo_of_encode roundTrip operands admits (by rw [encoded, layout_F2])

/-- R105: the same for F3. -/
theorem decodesTo_F3 {op : BitVec 5} {d : BitVec 3} {imm8 : BitVec 8} {i : Instr}
    (roundTrip : EncodingRoundTrip.Statement i) (operands : lowOperands i = [low d])
    (admits : ∀ next, admitsNext i next = true)
    (encoded : encode i = [asHalf (op.toNat * 2 ^ 11 + putReg (low d) 8 + putImm imm8 0)]) :
    decodesTo (op ++ d ++ imm8) i :=
  decodesTo_of_encode (fields := [d]) roundTrip operands admits (by rw [encoded, layout_F3])

/-- R190. -/
theorem lslImm_leads (rd rm : Reg) (imm5 : BitVec 5) (s : State) :
    leads (.lslImm rd rm imm5) s (putNZC s rd (lslBy (x s rm) imm5.toNat s.flags.c)) := by
  change writeShift rd (shiftLeft (x s rm) imm5.toNat s.flags.c) s = _
  rw [shiftLeft_eq_lslBy, writeShift_eq]

/-- R191: the field 0 shifts by 32. -/
theorem lsrImm_leads (rd rm : Reg) (imm5 : BitVec 5) (s : State) :
    leads (.lsrImm rd rm imm5) s (putNZC s rd (lsrBy (x s rm) (amount imm5) s.flags.c)) := by
  change writeShift rd (shiftRight (x s rm) (amount imm5) s.flags.c) s = _
  rw [shiftRight_eq_lsrBy, writeShift_eq]

/-- R192: the field 0 shifts by 32. -/
theorem asrImm_leads (rd rm : Reg) (imm5 : BitVec 5) (s : State) :
    leads (.asrImm rd rm imm5) s (putNZC s rd (asrBy (x s rm) (amount imm5) s.flags.c)) := by
  change writeShift rd (shiftRightArith (x s rm) (amount imm5) s.flags.c) s = _
  rw [shiftRightArith_eq_asrBy, writeShift_eq]

/-- Settles O4: each halfword of F1 decodes through its round trip, and each answer is the rule's
shift. -/
theorem shiftImmediateResults : Obligations.ShiftImmediateResults := by
  intro d m imm5 s
  refine ⟨⟨?lslDecodes, ?lslRuns⟩, ⟨?lsrDecodes, ?lsrRuns⟩, ⟨?asrDecodes, ?asrRuns⟩⟩
  case lslDecodes => exact decodesTo_F1 (EncodingRoundTrip.lslImm _ _ _) rfl (fun _ => rfl) rfl
  case lslRuns => exact lslImm_leads (low d) (low m) imm5 s
  case lsrDecodes => exact decodesTo_F1 (EncodingRoundTrip.lsrImm _ _ _) rfl (fun _ => rfl) rfl
  case lsrRuns => exact lsrImm_leads (low d) (low m) imm5 s
  case asrDecodes => exact decodesTo_F1 (EncodingRoundTrip.asrImm _ _ _) rfl (fun _ => rfl) rfl
  case asrRuns => exact asrImm_leads (low d) (low m) imm5 s

/-- Settles O5: each halfword of F2 decodes through its round trip, and each answer is the rule's
adder on `x[n]` and the operand; SUB is addition of the complement with carry in (R161). -/
theorem addSubtractThreeOperands : Obligations.AddSubtractThreeOperands := by
  intro d n m s
  rw [← immZext_eq m]
  refine ⟨⟨?addRegDecodes, ?addRegRuns⟩, ⟨?subRegDecodes, ?subRegRuns⟩,
    ⟨?addImmDecodes, ?addImmRuns⟩, ⟨?subImmDecodes, ?subImmRuns⟩⟩
  case addRegDecodes =>
    exact decodesTo_F2 (fields := [d, n, m]) (EncodingRoundTrip.addReg _ _ _) rfl (fun _ => rfl) rfl
  case addRegRuns => exact writeSum_addWithCarry (low d) (x s (low n)) (x s (low m)) false s
  case subRegDecodes =>
    exact decodesTo_F2 (fields := [d, n, m]) (EncodingRoundTrip.subReg _ _ _) rfl (fun _ => rfl) rfl
  case subRegRuns => exact writeSum_addWithCarry (low d) (x s (low n)) (~~~ x s (low m)) true s
  case addImmDecodes =>
    exact decodesTo_F2 (fields := [d, n]) (EncodingRoundTrip.addImm3 _ _ _) rfl (fun _ => rfl) rfl
  case addImmRuns => exact writeSum_addWithCarry (low d) (x s (low n)) (immZext m) false s
  case subImmDecodes =>
    exact decodesTo_F2 (fields := [d, n]) (EncodingRoundTrip.subImm3 _ _ _) rfl (fun _ => rfl) rfl
  case subImmRuns => exact writeSum_addWithCarry (low d) (x s (low n)) (~~~ immZext m) true s

/-- Settles O6: each halfword of F3 decodes through its round trip; MOV writes the immediate with N
and Z, ADD and SUB the adder's outputs, CMP the flags alone. -/
theorem moveCompareAddSubtractImm8 : Obligations.MoveCompareAddSubtractImm8 := by
  intro d imm8 s
  rw [← immZext_eq imm8]
  refine ⟨⟨?movDecodes, ?movRuns⟩, ⟨?cmpDecodes, ?cmpRuns⟩, ⟨?addDecodes, ?addRuns⟩,
    ⟨?subDecodes, ?subRuns⟩⟩
  case movDecodes => exact decodesTo_F3 (EncodingRoundTrip.movImm8 _ _) rfl (fun _ => rfl) rfl
  case movRuns => exact writeLogical_eq (low d) (immZext imm8) s
  case cmpDecodes => exact decodesTo_F3 (EncodingRoundTrip.cmpImm8 _ _) rfl (fun _ => rfl) rfl
  case cmpRuns => exact compareSum_addWithCarry (x s (low d)) (~~~ immZext imm8) true s
  case addDecodes => exact decodesTo_F3 (EncodingRoundTrip.addImm8 _ _) rfl (fun _ => rfl) rfl
  case addRuns => exact writeSum_addWithCarry (low d) (x s (low d)) (immZext imm8) false s
  case subDecodes => exact decodesTo_F3 (EncodingRoundTrip.subImm8 _ _) rfl (fun _ => rfl) rfl
  case subRuns => exact writeSum_addWithCarry (low d) (x s (low d)) (~~~ immZext imm8) true s

end Sys2Proof.Proofs
end

section
/-! # 43_alu_register.md, format F4: AND, EOR, TST, ORR, MUL, BIC and MVN -/

namespace Sys2Proof.Proofs

open Sys2Proof Sys2Proof.Machine Sys2Proof.Claims Sys2Proof.Laws

/-- Ten fixed bits above two low registers, the places of F4 (R106): `oooooooooo mmm ddd`. -/
theorem layout_lowPair (op : BitVec 10) (m d : BitVec 3) :
    op ++ m ++ d = asHalf (op.toNat * 2 ^ 6 + putReg (low d) 0 + putReg (low m) 3) := by
  have hop := op.isLt
  have hm := m.isLt
  have hd := d.isLt
  apply BitVec.eq_of_toNat_eq
  simp only [putReg, low_val]
  rw [asHalf_toNat (by omega)]
  simp only [toNat_append_eq_add]
  omega

/-- R106: an instruction whose encoding has the places of F4 is what the diagram's halfword decodes
to. -/
theorem f4_of_encode {op : BitVec 4} {m d : BitVec 3} {i : Instr}
    (roundTrip : EncodingRoundTrip.Statement i) (operands : lowOperands i = [low d, low m])
    (admits : ∀ next, admitsNext i next = true)
    (encoded : encode i =
      [asHalf ((0b010000#6 ++ op).toNat * 2 ^ 6 + putReg (low d) 0 + putReg (low m) 3)]) :
    f4 op m d i :=
  decodesTo_of_encode (fields := [d, m]) roundTrip operands admits
    (by rw [encoded, layout_lowPair])

/-- R218: TST keeps every register, and N and Z come from the conjunction of its operands. -/
theorem tstReg_leads (rn rm : Reg) (s : State) :
    leads (.tstReg rn rm) s (flagNZ s (x s rn &&& x s rm)) := by
  change Host.Outcome.next (s.setFlags (setNZ s.flags (x s rn &&& x s rm))) = _
  rw [setNZ_eq]
  rfl

/-- R223: the rule reduces the product of the unsigned values modulo 2^32, the model multiplies
words. -/
theorem mulReg_leads (rdn rm : Reg) (s : State) :
    leads (.mulReg rdn rm) s
      (putNZ s rdn (BitVec.ofNat 32 ((x s rdn).toNat * (x s rm).toNat % 2 ^ 32))) := by
  have hproduct : x s rdn * x s rm =
      BitVec.ofNat 32 ((x s rdn).toNat * (x s rm).toNat % 2 ^ 32) := by
    rw [← BitVec.toNat_mul, BitVec.ofNat_toNat, BitVec.setWidth_eq]
  change writeLogical rdn (x s rdn * x s rm) s = _
  rw [hproduct, writeLogical_eq]

/-- Settles O7: each halfword of F4 decodes through its round trip; each answer writes the rule's
result with N and Z of it, except that TST writes the flags alone. -/
theorem logicalAndMultiplyResults : Obligations.LogicalAndMultiplyResults := by
  intro d m s
  refine ⟨⟨?andDecodes, ?andRuns⟩, ⟨?eorDecodes, ?eorRuns⟩, ⟨?tstDecodes, ?tstRuns⟩,
    ⟨?orrDecodes, ?orrRuns⟩, ⟨?mulDecodes, ?mulRuns⟩, ⟨?bicDecodes, ?bicRuns⟩,
    ⟨?mvnDecodes, ?mvnRuns⟩⟩
  case andDecodes => exact f4_of_encode (EncodingRoundTrip.andReg _ _) rfl (fun _ => rfl) rfl
  case andRuns => exact writeLogical_eq (low d) (x s (low d) &&& x s (low m)) s
  case eorDecodes => exact f4_of_encode (EncodingRoundTrip.eorReg _ _) rfl (fun _ => rfl) rfl
  case eorRuns => exact writeLogical_eq (low d) (x s (low d) ^^^ x s (low m)) s
  case tstDecodes => exact f4_of_encode (EncodingRoundTrip.tstReg _ _) rfl (fun _ => rfl) rfl
  case tstRuns => exact tstReg_leads (low d) (low m) s
  case orrDecodes => exact f4_of_encode (EncodingRoundTrip.orrReg _ _) rfl (fun _ => rfl) rfl
  case orrRuns => exact writeLogical_eq (low d) (x s (low d) ||| x s (low m)) s
  case mulDecodes => exact f4_of_encode (EncodingRoundTrip.mulReg _ _) rfl (fun _ => rfl) rfl
  case mulRuns => exact mulReg_leads (low d) (low m) s
  case bicDecodes => exact f4_of_encode (EncodingRoundTrip.bicReg _ _) rfl (fun _ => rfl) rfl
  case bicRuns => exact writeLogical_eq (low d) (x s (low d) &&& ~~~ x s (low m)) s
  case mvnDecodes => exact f4_of_encode (EncodingRoundTrip.mvnReg _ _) rfl (fun _ => rfl) rfl
  case mvnRuns => exact writeLogical_eq (low d) (~~~ x s (low m)) s

end Sys2Proof.Proofs
end

section
/-! # 46_address_sp_extend_reverse.md, formats F12 and F13: the extends and the byte reverses -/

namespace Sys2Proof.Proofs

open Sys2Proof Sys2Proof.Machine Sys2Proof.Claims Sys2Proof.Laws

/-- R115, R116: an instruction whose encoding is ten fixed bits above two low registers is what the
diagram's halfword decodes to. -/
theorem decodesTo_lowPair {op : BitVec 10} {m d : BitVec 3} {i : Instr}
    (roundTrip : EncodingRoundTrip.Statement i) (operands : lowOperands i = [low d, low m])
    (admits : ∀ next, admitsNext i next = true)
    (encoded : encode i = [asHalf (op.toNat * 2 ^ 6 + putReg (low d) 0 + putReg (low m) 3)]) :
    decodesTo (op ++ m ++ d) i :=
  decodesTo_of_encode (fields := [d, m]) roundTrip operands admits (by rw [encoded, layout_lowPair])

/-- The answer of an instruction that writes one register and no flag. -/
theorem writeReg_eq (rd : Reg) (v : Word) (s : State) : writeReg rd v s = .next (put s rd v) := rfl

/-- R284: `signExtend` is by definition the word of the signed value. -/
theorem sextHalf_eq_signHalf (v : Word) : sextHalf v = signHalf v := rfl

/-- R285: as for the halfword. -/
theorem sextByte_eq_signByte (v : Word) : sextByte v = signByte v := rfl

/-- Masking with `n` ones keeps the value modulo `2 ^ n`. -/
theorem and_ones_eq_ofNat_mod {n : Nat} (hn : n ≤ 32) (v : Word) :
    v &&& BitVec.ofNat 32 (2 ^ n - 1) = BitVec.ofNat 32 (v.toNat % 2 ^ n) := by
  have hmask : 2 ^ n - 1 < 2 ^ 32 :=
    (Nat.sub_one_lt_of_lt (Nat.two_pow_pos n)).trans_le (Nat.pow_le_pow_right two_pos hn)
  apply BitVec.eq_of_toNat_eq
  rw [BitVec.toNat_and, BitVec.toNat_ofNat, BitVec.toNat_ofNat, Nat.mod_eq_of_lt hmask,
    Nat.and_two_pow_sub_one_eq_mod, Nat.mod_eq_of_lt ((Nat.mod_le _ _).trans_lt v.isLt)]

/-- R286. -/
theorem keepLow_half_eq (v : Word) : keepLow .half v = BitVec.ofNat 32 (v.toNat % 2 ^ 16) :=
  and_ones_eq_ofNat_mod (n := 16) (by omega) v

/-- R287. -/
theorem keepLow_byte_eq (v : Word) : keepLow .byte v = BitVec.ofNat 32 (v.toNat % 2 ^ 8) :=
  and_ones_eq_ofNat_mod (n := 8) (by omega) v

/-- R284. -/
theorem sxth_leads (rd rm : Reg) (s : State) :
    leads (.sxth rd rm) s (put s rd (signHalf (x s rm))) := by
  change writeReg rd (sextHalf (x s rm)) s = _
  rw [sextHalf_eq_signHalf, writeReg_eq]

/-- R285. -/
theorem sxtb_leads (rd rm : Reg) (s : State) :
    leads (.sxtb rd rm) s (put s rd (signByte (x s rm))) := by
  change writeReg rd (sextByte (x s rm)) s = _
  rw [sextByte_eq_signByte, writeReg_eq]

/-- R286. -/
theorem uxth_leads (rd rm : Reg) (s : State) :
    leads (.uxth rd rm) s (put s rd (BitVec.ofNat 32 ((x s rm).toNat % 2 ^ 16))) := by
  change writeReg rd (keepLow .half (x s rm)) s = _
  rw [keepLow_half_eq, writeReg_eq]

/-- R287. -/
theorem uxtb_leads (rd rm : Reg) (s : State) :
    leads (.uxtb rd rm) s (put s rd (BitVec.ofNat 32 ((x s rm).toNat % 2 ^ 8))) := by
  change writeReg rd (keepLow .byte (x s rm)) s = _
  rw [keepLow_byte_eq, writeReg_eq]

/-- Settles O19: each halfword of F12 decodes through its round trip, and each answer writes the
extension as the rule reckons it: of the signed value, or modulo a power of two. -/
theorem signAndZeroExtends : Obligations.SignAndZeroExtends := by
  intro d m s
  refine ⟨⟨?sxthDecodes, ?sxthRuns⟩, ⟨?sxtbDecodes, ?sxtbRuns⟩, ⟨?uxthDecodes, ?uxthRuns⟩,
    ⟨?uxtbDecodes, ?uxtbRuns⟩⟩
  case sxthDecodes => exact decodesTo_lowPair (EncodingRoundTrip.sxth _ _) rfl (fun _ => rfl) rfl
  case sxthRuns => exact sxth_leads (low d) (low m) s
  case sxtbDecodes => exact decodesTo_lowPair (EncodingRoundTrip.sxtb _ _) rfl (fun _ => rfl) rfl
  case sxtbRuns => exact sxtb_leads (low d) (low m) s
  case uxthDecodes => exact decodesTo_lowPair (EncodingRoundTrip.uxth _ _) rfl (fun _ => rfl) rfl
  case uxthRuns => exact uxth_leads (low d) (low m) s
  case uxtbDecodes => exact decodesTo_lowPair (EncodingRoundTrip.uxtb _ _) rfl (fun _ => rfl) rfl
  case uxtbRuns => exact uxtb_leads (low d) (low m) s

/-- The model's `byteOf` reads the bytes that R288 calls `b_3 b_2 b_1 b_0`: the bytes below the one
read are dropped one by one, those above it at once. -/
theorem byteOf_append (b3 b2 b1 b0 : Byte) :
    byteOf (b3 ++ b2 ++ b1 ++ b0) 3 = b3 ∧ byteOf (b3 ++ b2 ++ b1 ++ b0) 2 = b2 ∧
    byteOf (b3 ++ b2 ++ b1 ++ b0) 1 = b1 ∧ byteOf (b3 ++ b2 ++ b1 ++ b0) 0 = b0 := by
  have dropLow {w : Nat} (hi : BitVec w) (lo : Byte) (start : Nat) :
      (hi ++ lo).extractLsb' (start + 8) 8 = hi.extractLsb' start 8 :=
    BitVec.extractLsb'_append_eq_of_le (Nat.le_add_left 8 start)
  refine ⟨?third, ?second, ?first, BitVec.extractLsb'_append_eq_right⟩
  case third =>
    exact (dropLow _ b0 16).trans ((dropLow _ b1 8).trans BitVec.extractLsb'_append_eq_left)
  case second =>
    exact (dropLow _ b0 8).trans ((dropLow _ b1 0).trans BitVec.extractLsb'_append_eq_right)
  case first => exact (dropLow _ b0 0).trans BitVec.extractLsb'_append_eq_right

/-- R288. -/
theorem rev_leads {rm : Reg} {s : State} {b3 b2 b1 b0 : Byte} (rd : Reg)
    (held : x s rm = b3 ++ b2 ++ b1 ++ b0) :
    leads (.rev rd rm) s (put s rd (b0 ++ b1 ++ b2 ++ b3)) := by
  obtain ⟨h3, h2, h1, h0⟩ := byteOf_append b3 b2 b1 b0
  change writeReg rd (revWord (x s rm)) s = _
  rw [held, revWord, h3, h2, h1, h0, writeReg_eq]

/-- R289. -/
theorem rev16_leads {rm : Reg} {s : State} {b3 b2 b1 b0 : Byte} (rd : Reg)
    (held : x s rm = b3 ++ b2 ++ b1 ++ b0) :
    leads (.rev16 rd rm) s (put s rd (b2 ++ b3 ++ b0 ++ b1)) := by
  obtain ⟨h3, h2, h1, h0⟩ := byteOf_append b3 b2 b1 b0
  change writeReg rd (revHalves (x s rm)) s = _
  rw [held, revHalves, h3, h2, h1, h0, writeReg_eq]

/-- R290: only the two low bytes of the source are read. -/
theorem revsh_leads {rm : Reg} {s : State} {b3 b2 b1 b0 : Byte} (rd : Reg)
    (held : x s rm = b3 ++ b2 ++ b1 ++ b0) :
    leads (.revsh rd rm) s (put s rd (BitVec.ofInt 32 (b0 ++ b1).toInt)) := by
  obtain ⟨-, -, h1, h0⟩ := byteOf_append b3 b2 b1 b0
  change writeReg rd (revSignedHalf (x s rm)) s = _
  rw [held, revSignedHalf, h1, h0, writeReg_eq, BitVec.signExtend]

/-- Settles O20: each halfword of F13 decodes through its round trip, and each answer writes the bytes
of the source in the rule's order. -/
theorem byteReverses : Obligations.ByteReverses := by
  intro d m b3 b2 b1 b0 s held
  refine ⟨⟨?revDecodes, ?revRuns⟩, ⟨?rev16Decodes, ?rev16Runs⟩, ⟨?revshDecodes, ?revshRuns⟩⟩
  case revDecodes => exact decodesTo_lowPair (EncodingRoundTrip.rev _ _) rfl (fun _ => rfl) rfl
  case revRuns => exact rev_leads (low d) held
  case rev16Decodes => exact decodesTo_lowPair (EncodingRoundTrip.rev16 _ _) rfl (fun _ => rfl) rfl
  case rev16Runs => exact rev16_leads (low d) held
  case revshDecodes => exact decodesTo_lowPair (EncodingRoundTrip.revsh _ _) rfl (fun _ => rfl) rfl
  case revshRuns => exact revsh_leads (low d) held

end Sys2Proof.Proofs
end

section
/-! # 40_step_engine.md and 60_exceptions.md: what a step does to the fields that no instruction touches,
said once for a step with an entry and once for a step without; and the invariants of every step -/

namespace Sys2Proof.Proofs

open Sys2Proof Sys2Proof.Machine Sys2Proof.Claims Sys2Proof.Laws

/-- R367, R368: the check finds no source exactly where the statements say that no entry is made. -/
theorem pendingSource_eq_none {s : State} : pendingSource s = none ↔ noEntry s := by
  unfold pendingSource
  split_ifs <;> simp_all [noEntry]

theorem pendingSource_eq_dma {s : State} (h : pendingSource s = some .dma) :
    s.excActive = false ∧ s.dmaPending = true := by
  unfold pendingSource at h
  split_ifs at h <;> simp_all

theorem pendingSource_eq_tick {s : State} (h : pendingSource s = some .tick) :
    s.excActive = false ∧ s.dmaPending = false ∧ s.tickPending = true := by
  unfold pendingSource at h
  split_ifs at h <;> simp_all

/-- A step without an entry makes its exits, then the small changes of one instruction or of the advance
alone, and retires. -/
theorem step_without_entry {s t : State} (hnone : noEntry s) (h : engineStep s = .next t) :
    ∃ u v e, exitLoop exitFuel s = .ok u ∧ Moves u v ∧ t = retire e v := by
  have hsource := pendingSource_eq_none.mpr hnone
  rcases engineStep_cases h with ⟨src, hsrc, -⟩ | ⟨u, i, v, -, hexit, -, hexec, rfl⟩ |
    ⟨u, -, hexit, -, rfl⟩
  · rw [hsource] at hsrc
    cases hsrc
  · exact ⟨u, v, _, hexit, (Moves.one (.setReg u pc _)).trans (exec_moves hexec), rfl⟩
  · exact ⟨u, advance u, _, hexit, .single (.setReg u pc _), rfl⟩

/-- A step with an entry clears the serviced bit, DMA before the tick, makes the small changes of the
entry, marks the exception active and reports it. -/
theorem step_with_entry {s t : State} (hentry : ¬ noEntry s) (h : engineStep s = .next t) :
    ∃ s' u e, Moves s' u ∧ t = State.emit { u with excActive := true } e ∧
      ((s.dmaPending = true ∧ s' = { s with dmaPending := false }) ∨
       (s.dmaPending = false ∧ s.tickPending = true ∧ s' = { s with tickPending := false })) := by
  rcases engineStep_cases h with ⟨src, hsrc, hserve⟩ | ⟨u, i, v, hnone, -⟩ | ⟨u, hnone, -⟩
  · obtain ⟨w, vector, s', hent, rfl, hcase⟩ := serviceInterrupt_cases hserve
    obtain ⟨u, hmoves, rfl⟩ := exceptionEntry_moves hent
    refine ⟨s', u, _, hmoves, rfl, ?_⟩
    rcases hcase with ⟨rfl, -, rfl⟩ | ⟨rfl, -, rfl⟩
    · exact .inl ⟨(pendingSource_eq_dma hsrc).2, rfl⟩
    · exact .inr ⟨(pendingSource_eq_tick hsrc).2.1, (pendingSource_eq_tick hsrc).2.2, rfl⟩
  · exact absurd (pendingSource_eq_none.mp hnone) hentry
  · exact absurd (pendingSource_eq_none.mp hnone) hentry

/-! ### Invariants -/

/-- A property that each of the parts of a step keeps: the small changes, the mode bit, the pending
bits, the tick. -/
structure KeptByParts (P : State → Prop) : Prop where
  move : ∀ s t, Move s t → P s → P t
  mode : ∀ s b, P s → P { s with excActive := b }
  pending : ∀ s d k, P s → P { s with dmaPending := d, tickPending := k }
  tick : ∀ s, P s → P (countTick s)

/-- What the parts keep, every step keeps. -/
theorem KeptByParts.step {P : State → Prop} (hP : KeptByParts P) {s t : State}
    (h : engineStep s = .next t) (hs : P s) : P t := by
  by_cases hnone : noEntry s
  · obtain ⟨u, v, e, hexit, hmoves, rfl⟩ := step_without_entry hnone h
    have hu : P u := exitLoop_keeps hP.move (fun s hs => hP.mode s false hs) hexit hs
    exact hP.move _ _ (.emit _ e) (hP.tick v (hmoves.keeps hP.move hu))
  · obtain ⟨s', u, e, hmoves, rfl, hserved⟩ := step_with_entry hnone h
    have hs' : P s' := by
      rcases hserved with ⟨-, rfl⟩ | ⟨-, -, rfl⟩
      · exact hP.pending s false s.tickPending hs
      · exact hP.pending s s.dmaPending false hs
    exact hP.move _ _ (.emit _ e) (hP.mode u true (hmoves.keeps hP.move hs'))

/-- The configuration, the code, the vectors and the registry. -/
def fixedPart (s : State) : Config × Memory × ICache × Word × Word ×
    List (Nat × ReadHandler) × List (Nat × WriteHandler) :=
  (s.cfg, s.rom, s.icache, s.vecTick, s.vecDma, s.readHandlers, s.writeHandlers)

theorem fixedPart_of_untouched {s t : State} (h : Untouched s t) : fixedPart t = fixedPart s := by
  simp only [fixedPart, h.cfg, h.rom, h.icache, h.vecTick, h.vecDma, h.readHandlers, h.writeHandlers]

theorem fixedPart_kept (s : State) : KeptByParts (fun u => fixedPart u = fixedPart s) where
  move _ _ hm hu := (fixedPart_of_untouched hm.untouched).trans hu
  mode _ _ hu := hu
  pending _ _ _ hu := hu
  tick u hu := by simpa [fixedPart] using hu

/-- Settles O48: every part of a step keeps the fixed part of the state. -/
theorem stepKeepsCodeVectorsAndRegistry : Obligations.StepKeepsCodeVectorsAndRegistry := by
  intro s t h
  simpa only [fixedPart, Prod.mk.injEq] using (fixedPart_kept s).step h rfl

theorem move_stateOk {s t : State} (hm : Move s t) (hs : StateOk s) : StateOk t := by
  have hsame := hm.untouched
  obtain ⟨hform, hbound⟩ := hm.ram ⟨hs.ramForm, hs.ramBound⟩
  exact {
    config := hsame.cfg ▸ hs.config
    romForm := hsame.rom ▸ hs.romForm
    romBound := hsame.rom ▸ hsame.cfg ▸ hs.romBound
    ramForm := hform
    ramBound := hbound
    tickBound := by rw [hsame.tickCount, hsame.cfg]; exact hs.tickBound
    readForm := hsame.readHandlers ▸ hs.readForm
    writeForm := hsame.writeHandlers ▸ hs.writeForm }

/-- R34, R363: the counter stays below the threshold, which is at least 1. -/
theorem countTick_stateOk {s : State} (hs : StateOk s) : StateOk (countTick s) := by
  obtain ⟨-, -, -, -, -, hthreshold, -⟩ := hs.config
  unfold countTick
  split
  · exact { hs with tickBound := hthreshold }
  · exact { hs with tickBound := by simp only; omega }

theorem stateOk_kept : KeptByParts StateOk where
  move _ _ hm hs := move_stateOk hm hs
  mode _ _ hs := { hs with }
  pending _ _ _ hs := { hs with }
  tick _ hs := countTick_stateOk hs

/-- Settles O59: every part of a step keeps the invariant. -/
theorem stepKeepsStateOk : Obligations.StepKeepsStateOk :=
  fun _ _ hs h => stateOk_kept.step h hs

/-! ### The commands of the host -/

theorem moves_stateOk {s t : State} (h : Moves s t) (hs : StateOk s) : StateOk t :=
  h.keeps (fun _ _ hm => move_stateOk hm) hs

theorem memRead_stateOk {a : Word} {w : Width} {s : State} {r : Word × State}
    (h : memRead a w s = .ok r) (hs : StateOk s) : StateOk r.2 := moves_stateOk (memRead_moves h) hs

theorem clearLowRegs_moves (s : State) : Moves s (clearLowRegs s) := by
  have clears (rs : List Reg) : Moves s (rs.foldl (fun t r => t.setReg r 0) s) := by
    induction rs using List.reverseRecOn with
    | nil => exact .refl
    | append_singleton rs r ih => rw [List.foldl_append]; exact ih.tail (.setReg _ r 0)
  exact clears _

/-- R421: the words of the table are read by accesses, and the rest writes registers and latches. -/
theorem hostReset_stateOk {offset : Word} {s t : State} (h : hostReset offset s = .ok t)
    (hs : StateOk s) : StateOk t := by
  obtain ⟨top, htop, h⟩ := bind_eq_ok h
  obtain ⟨entry, hentry, h⟩ := bind_eq_ok h
  obtain ⟨tick, htick, h⟩ := bind_eq_ok h
  obtain ⟨dma, hdma, rfl⟩ := map_eq_ok h
  have htop := memRead_stateOk htop (moves_stateOk (clearLowRegs_moves s) hs)
  have hentry := memRead_stateOk hentry { htop with }
  have htick := memRead_stateOk htick { hentry with }
  have hdma := memRead_stateOk hdma { htick with }
  obtain ⟨-, -, -, -, -, hthreshold, -⟩ := hdma.config
  exact { hdma with tickBound := hthreshold }

theorem copyImage_wf (n : Nat) {m : Memory} (h : m.wf) (o : Nat) (image : List Byte) :
    (copyImage n m o image).wf := by
  induction image generalizing m o with
  | nil => exact h
  | cons b bs ih =>
    unfold copyImage
    split
    · exact ih (Memory.wf_set h o b) _
    · exact ih h _

theorem copyImage_bound {n : Nat} {m : Memory} (h : ∀ c ∈ m, c.1 < n) (o : Nat) (image : List Byte) :
    ∀ c ∈ copyImage n m o image, c.1 < n := by
  induction image generalizing m o with
  | nil => exact h
  | cons b bs ih =>
    unfold copyImage
    split
    · refine ih (fun c hc => ?_) _
      rcases Memory.mem_set hc with rfl | hc
      · assumption
      · exact h c hc
    · exact ih h _

/-- R420: the arrays are refilled in canonical form before the reset, and decoding changes neither. -/
theorem loadFlash_stateOk {image : List Byte} {offset : Word} {s t : State}
    (h : loadFlash image offset s = .ok t) (hs : StateOk s) : StateOk t := by
  obtain ⟨u, hreset, rfl⟩ := map_eq_ok h
  have hfilled : StateOk { s with rom := copyImage s.cfg.romSize [] offset.toNat image, ram := [] } :=
    { hs with
      romForm := copyImage_wf _ Memory.wf_nil _ _
      romBound := copyImage_bound (by simp) _ _
      ramForm := Memory.wf_nil
      ramBound := by simp }
  exact { hostReset_stateOk hreset hfilled with }

/-- Settles O60: a registration keeps the handler maps rising, load and reset are as above, and the
other commands make a step or small changes. -/
theorem commandsKeepStateOk : Obligations.CommandsKeepStateOk := by
  intro c s t hs h
  cases c with
  | loadFlash image offset => exact loadFlash_stateOk (answer_eq_next h) hs
  | reset offset => exact hostReset_stateOk (answer_eq_next h) hs
  | step => exact stateOk_kept.step h hs
  | registerRead addr => cases h; exact { hs with readForm := risingKeys_insertKey _ _ hs.readForm }
  | registerWrite addr => cases h; exact { hs with writeForm := risingKeys_insertKey _ _ hs.writeForm }
  | signalDma => cases h; exact { hs with }
  | setReg r v => cases h; exact { hs with }
  | setFlag f b => cases h; exact { hs with }
  | memRead a w =>
    obtain ⟨r, hr, rfl⟩ := map_eq_ok (answer_eq_next h)
    exact memRead_stateOk hr hs
  | memWrite a w v => exact moves_stateOk (memWrite_moves (answer_eq_next h)) hs

/-! ### Ticks, mode and pending bits -/

/-- The exits of a step keep the configuration, the counter and the tick bit. -/
theorem exitLoop_clock {n : Nat} {s t : State} (h : exitLoop n s = .ok t) :
    t.cfg = s.cfg ∧ t.tickCount = s.tickCount ∧ t.tickPending = s.tickPending :=
  exitLoop_keeps
    (P := fun u => u.cfg = s.cfg ∧ u.tickCount = s.tickCount ∧ u.tickPending = s.tickPending)
    (fun _ _ hm ⟨hcfg, hcount, hbit⟩ => ⟨hm.untouched.cfg.trans hcfg,
      hm.untouched.tickCount.trans hcount, hm.untouched.tickPending.trans hbit⟩)
    (fun _ hu => hu) h ⟨rfl, rfl, rfl⟩

/-- Settles O42: what comes before the tick of a step leaves the counter and the tick bit alone, and an
entry clears at most the bit it services. -/
theorem ticksCountExecutedSteps : Obligations.TicksCountExecutedSteps := by
  intro s t h
  refine ⟨fun hnone => ?executed, fun hentry => ?entered⟩
  case executed =>
    obtain ⟨u, v, e, hexit, hmoves, rfl⟩ := step_without_entry hnone h
    obtain ⟨hcfg, hcount, hbit⟩ := exitLoop_clock hexit
    have hsame := hmoves.untouched
    rw [retire_tickCount, retire_tickPending, hsame.cfg, hsame.tickCount, hsame.tickPending, hcfg,
      hcount, hbit]
    by_cases hreach : s.cfg.tickThreshold ≤ s.tickCount + 1 <;> simp [hreach]
  case entered =>
    obtain ⟨s', u, e, hmoves, rfl, hserved⟩ := step_with_entry hentry h
    have hsame := hmoves.untouched
    rw [emit_tickCount, emit_tickPending]
    simp only [hsame.tickCount, hsame.tickPending]
    rcases hserved with ⟨hdma, rfl⟩ | ⟨hdma, -, rfl⟩ <;> simp [hdma]

/-- A loop that starts at the sentinel makes an exit, and no later exit makes the exception active. -/
theorem exitLoop_leaves_handler {n : Nat} {s t : State} (h : exitLoop n s = .ok t)
    (hsent : instrAddr s = sentinel) : t.excActive = false := by
  cases n with
  | zero => simp [exitLoop, hsent] at h
  | succ n =>
    rw [exitLoop_at_sentinel n hsent] at h
    obtain ⟨u, hexit, h⟩ := bind_eq_ok h
    obtain ⟨v, -, rfl⟩ := exceptionExit_moves hexit
    exact exitLoop_keeps (P := fun u => u.excActive = false)
      (fun _ _ hm hu => hm.untouched.excActive.trans hu) (fun _ _ => rfl) h rfl

/-- Settles O43: an entry sets the state, a loop that starts at the sentinel clears it, and nothing else
in a step touches it. -/
theorem onlyEntryAndExitChangeMode : Obligations.OnlyEntryAndExitChangeMode := by
  intro s t h
  refine ⟨fun hentry => ?entry, fun hnone hsent => ?exit, fun hnone haway => ?other⟩
  case entry =>
    obtain ⟨s', u, e, -, rfl, -⟩ := step_with_entry hentry h
    rfl
  case exit =>
    obtain ⟨u, v, e, hexit, hmoves, rfl⟩ := step_without_entry hnone h
    rw [retire_excActive, hmoves.untouched.excActive]
    exact exitLoop_leaves_handler hexit hsent
  case other =>
    obtain ⟨u, v, e, hexit, hmoves, rfl⟩ := step_without_entry hnone h
    rw [exitLoop_elsewhere _ haway] at hexit
    cases hexit
    rw [retire_excActive, hmoves.untouched.excActive]

/-- No small change withdraws a pending DMA interrupt. -/
theorem move_keeps_dmaPending {s t : State} (hm : Move s t) (hs : s.dmaPending = true) :
    t.dmaPending = true := by
  cases hm
  case reply =>
    unfold nextReply
    split <;> exact hs
  case signalDma => rfl
  all_goals exact hs

/-- Settles O44: a step that makes no entry keeps both bits; an entry that finds the DMA bit set services
that source and leaves the tick bit. -/
theorem pendingUntilServiced : Obligations.PendingUntilServiced := by
  refine ⟨fun s => rfl, fun s t h => ⟨fun hdma hactive => ?dma, fun htick hwait => ?tick⟩⟩
  case dma =>
    obtain ⟨u, v, e, hexit, hmoves, rfl⟩ := step_without_entry (.inl hactive) h
    have hkeep := fun (s t : State) (hm : Move s t) => move_keeps_dmaPending hm
    rw [retire_dmaPending]
    exact hmoves.keeps hkeep (exitLoop_keeps hkeep (fun _ hu => hu) hexit hdma)
  case tick =>
    obtain ⟨hcounted, hentered⟩ := ticksCountExecutedSteps s t h
    by_cases hnone : noEntry s
    · simp [(hcounted hnone).2, htick]
    · have hdma : s.dmaPending = true := hwait.resolve_left fun hactive => hnone (.inl hactive)
      simp [(hentered hnone).2, htick, hdma]

end Sys2Proof.Proofs
end

section
/-! # 20_memory.md: two runs of one access, under two bounds and with two outputs before it. One
comparison says that a bound only takes answers away, that the hang is the only fault, and that the
output is never read -/

namespace Sys2Proof.Proofs

open Sys2Proof Sys2Proof.Machine Sys2Proof.Claims Sys2Proof.Laws

/-- The same state but for the output, which is the same list of events on top of `p` and of `q`. -/
inductive Rebased (p q : List Event) : State → State → Prop
  | mk (s : State) (l : List Event) :
      Rebased p q { s with trace := l ++ p } { s with trace := l ++ q }

theorem Rebased.refl (s : State) : Rebased s.trace s.trace s s := .mk s []

theorem Rebased.start (s : State) (q : List Event) : Rebased s.trace q s { s with trace := q } := .mk s []

theorem Rebased.symm {p q : List Event} {s t : State} (h : Rebased p q s t) : Rebased q p t s := by
  obtain ⟨s, l⟩ := h
  exact .mk s l

theorem Rebased.reg {p q : List Event} {s t : State} (h : Rebased p q s t) (r : Reg) :
    t.reg r = s.reg r := by
  obtain ⟨s, l⟩ := h
  rfl

theorem Rebased.cfg {p q : List Event} {s t : State} (h : Rebased p q s t) : t.cfg = s.cfg := by
  obtain ⟨s, l⟩ := h
  rfl

theorem Rebased.flags {p q : List Event} {s t : State} (h : Rebased p q s t) : t.flags = s.flags := by
  obtain ⟨s, l⟩ := h
  rfl

theorem Rebased.readHandlers {p q : List Event} {s t : State} (h : Rebased p q s t) :
    t.readHandlers = s.readHandlers := by
  obtain ⟨s, l⟩ := h
  rfl

theorem Rebased.writeHandlers {p q : List Event} {s t : State} (h : Rebased p q s t) :
    t.writeHandlers = s.writeHandlers := by
  obtain ⟨s, l⟩ := h
  rfl

theorem Rebased.plainRead {p q : List Event} {s t : State} (h : Rebased p q s t) (a : Word) (w : Width) :
    plainRead t a w = plainRead s a w := by
  obtain ⟨s, l⟩ := h
  rfl

/-- The comparison decides equality where the outputs before are the same. -/
theorem Rebased.eq_of_same_base {p : List Event} {s t : State} (h : Rebased p p s t) : t = s := by
  obtain ⟨s, l⟩ := h
  rfl

/-- An update that neither reads nor writes the output is made on both sides alike. -/
theorem Rebased.update {f : State → State} {p q : List Event} {s t : State} (h : Rebased p q s t)
    (hf : ∀ s tr, f { s with trace := tr } = { f s with trace := tr }) : Rebased p q (f s) (f t) := by
  obtain ⟨s, l⟩ := h
  rw [hf s (l ++ p), hf s (l ++ q)]
  exact .mk (f s) l

theorem Rebased.emit {p q : List Event} {s t : State} (h : Rebased p q s t) (e : Event) :
    Rebased p q (s.emit e) (t.emit e) := by
  obtain ⟨s, l⟩ := h
  exact .mk s (e :: l)

theorem Rebased.setReg {p q : List Event} {s t : State} (h : Rebased p q s t) (r : Reg) (v : Word) :
    Rebased p q (s.setReg r v) (t.setReg r v) := h.update (f := fun s => s.setReg r v) fun _ _ => rfl

theorem Rebased.branch {p q : List Event} {s t : State} (h : Rebased p q s t) (a : Word) :
    Rebased p q (branch a s) (branch a t) := h.setReg pc _

/-- An answer of the first run is matched by the second, and the first stops only by the bound on
nested accesses. -/
def Follows {α : Type} (r : α → α → Prop) (x y : Except Fault α) : Prop :=
  match x with
  | .ok a => ∃ b, y = .ok b ∧ r a b
  | .error f => f = .accessHang

theorem Follows.ok {α : Type} {r : α → α → Prop} {a b : α} (h : r a b) : Follows r (.ok a) (.ok b) :=
  ⟨b, rfl, h⟩

theorem Follows.bind {α β : Type} {r : α → α → Prop} {r' : β → β → Prop} {x y : Except Fault α}
    {f g : α → Except Fault β} (h : Follows r x y) (hfg : ∀ a b, r a b → Follows r' (f a) (g b)) :
    Follows r' (x.bind f) (y.bind g) := by
  cases x with
  | error e => exact h
  | ok a =>
    obtain ⟨b, rfl, hab⟩ := h
    exact hfg a b hab

theorem Follows.map {α β : Type} {r : α → α → Prop} {r' : β → β → Prop} {x y : Except Fault α}
    {f g : α → β} (h : Follows r x y) (hfg : ∀ a b, r a b → r' (f a) (g b)) :
    Follows r' (x.map f) (y.map g) := by
  cases x with
  | error e => exact h
  | ok a =>
    obtain ⟨b, rfl, hab⟩ := h
    exact .ok (hfg a b hab)

/-- The same value, and states that differ by the output before. -/
def SameAnswer (p q : List Event) (a b : Word × State) : Prop := a.1 = b.1 ∧ Rebased p q a.2 b.2

section
variable {p q : List Event} {bus bus' : Bus}

/-- What one bus answers, the other one does. -/
def BusFollows (p q : List Event) (bus bus' : Bus) : Prop :=
  ∀ acc s t, Rebased p q s t → Follows (SameAnswer p q) (bus acc s) (bus' acc t)

theorem busWrite_follows (hb : BusFollows p q bus bus') {s t : State} (h : Rebased p q s t)
    (a : Word) (w : Width) (v : Word) :
    Follows (Rebased p q) (busWrite bus a w v s) (busWrite bus' a w v t) :=
  (hb (.write a w v) s t h).map fun _ _ hab => hab.2

theorem runCall_follows (hb : BusFollows p q bus bus') {s t : State} (h : Rebased p q s t)
    (c : EnvCall) : Follows (Rebased p q) (runCall bus s c) (runCall bus' t c) := by
  cases c with
  | read a w => exact (hb (.read a w) s t h).map fun _ _ hab => hab.2
  | write a w v => exact busWrite_follows hb h a w v
  | signalDma => exact .ok (h.update (f := signalDma) fun _ _ => rfl)
  | setReg r v => exact .ok (h.setReg r v)
  | setFlag f b =>
    exact .ok (h.update (f := fun s => s.setFlags (writeFlag s.flags f b)) fun _ _ => rfl)

theorem runCalls_follows (hb : BusFollows p q bus bus') (cs : List EnvCall) {s t : State}
    (h : Rebased p q s t) : Follows (Rebased p q) (runCalls bus cs s) (runCalls bus' cs t) := by
  induction cs generalizing s t with
  | nil => exact .ok h
  | cons c cs ih => exact (runCall_follows hb h c).bind fun _ _ hab => ih hab

theorem nextReply_blind (s : State) (tr : List Event) :
    nextReply { s with trace := tr } =
      ((nextReply s).1, { (nextReply s).2 with trace := tr }) := by
  unfold nextReply
  cases s.env <;> rfl

theorem runHandler_follows (hb : BusFollows p q bus bus') {s t : State} (h : Rebased p q s t) :
    Follows (SameAnswer p q) (runHandler bus s) (runHandler bus' t) := by
  have hreply : (nextReply t).1 = (nextReply s).1 := by
    obtain ⟨s, l⟩ := h
    rw [nextReply_blind s (l ++ p), nextReply_blind s (l ++ q)]
  have hstate : Rebased p q (nextReply s).2 (nextReply t).2 :=
    h.update (f := fun s => (nextReply s).2) fun s tr => by rw [nextReply_blind]
  unfold runHandler
  rw [hreply]
  exact (runCalls_follows hb _ hstate).map fun _ _ hab => ⟨rfl, hab⟩

theorem copyBytes_follows (hb : BusFollows p q bus bus') (n : Nat) (src dst : Word) {s t : State}
    (h : Rebased p q s t) :
    Follows (Rebased p q) (copyBytes bus n src dst s) (copyBytes bus' n src dst t) := by
  induction n generalizing src dst s t with
  | zero => exact .ok h
  | succ n ih =>
    refine (hb (.read src .byte) s t h).bind fun ⟨v, s⟩ ⟨_, t⟩ ⟨hv, h⟩ => ?_
    cases hv
    exact (busWrite_follows hb h dst .byte v).bind fun _ _ hab => ih _ _ hab

theorem dmaTransfer_follows (hb : BusFollows p q bus bus') {s t : State} (h : Rebased p q s t) :
    Follows (Rebased p q) (dmaTransfer bus s) (dmaTransfer bus' t) := by
  have hdesc : descAddr t = descAddr s := by
    obtain ⟨s, l⟩ := h
    rfl
  unfold dmaTransfer
  rw [hdesc, h.cfg]
  refine (hb (.read _ _) s t h).bind fun ⟨count, s1⟩ ⟨_, t1⟩ ⟨hcount, h1⟩ => ?_
  refine (hb (.read _ .word) s1 t1 h1).bind fun ⟨src, s2⟩ ⟨_, t2⟩ ⟨hsrc, h2⟩ => ?_
  refine (hb (.read _ .word) s2 t2 h2).bind fun ⟨dst, s3⟩ ⟨_, t3⟩ ⟨hdst, h3⟩ => ?_
  refine (hb (.read _ .word) s3 t3 h3).bind fun ⟨next, s4⟩ ⟨_, t4⟩ ⟨hnext, h4⟩ => ?_
  cases hcount; cases hsrc; cases hdst; cases hnext
  exact (copyBytes_follows hb _ _ _ h4).map fun _ _ hab =>
    hab.update (f := finishTransfer next) fun _ _ => rfl

theorem mmioRead_follows (hb : BusFollows p q bus bus') {s t : State} (h : Rebased p q s t) (a : Word) :
    Follows (SameAnswer p q) (mmioRead bus a s) (mmioRead bus' a t) := by
  unfold mmioRead
  rw [h.cfg, h.readHandlers]
  split
  · exact .ok ⟨rfl, h⟩
  · split
    · exact .ok ⟨rfl, h⟩
    · exact runHandler_follows hb (h.emit _)
    · exact .ok ⟨rfl, h.emit _⟩

theorem mmioWrite_follows (hb : BusFollows p q bus bus') {s t : State} (h : Rebased p q s t)
    (a v : Word) : Follows (Rebased p q) (mmioWrite bus a v s) (mmioWrite bus' a v t) := by
  have hmap := congrArg (lookupKey · a.toNat) h.writeHandlers
  rcases hheld : lookupKey s.writeHandlers a.toNat with _ | _ | _ | _ | _
  · rw [mmioWrite_unmapped bus v hheld, mmioWrite_unmapped bus' v (hmap.trans hheld)]
    exact .ok (h.emit _)
  · rw [mmioWrite_chid bus v hheld, mmioWrite_chid bus' v (hmap.trans hheld)]
    exact .ok (h.update (f := fun s => { s with dmaChid := v }) fun _ _ => rfl)
  · rw [mmioWrite_base bus v hheld, mmioWrite_base bus' v (hmap.trans hheld)]
    exact .ok (h.update (f := fun s => { s with dmaBase := v }) fun _ _ => rfl)
  · rw [mmioWrite_trigger bus v hheld, mmioWrite_trigger bus' v (hmap.trans hheld)]
    exact dmaTransfer_follows hb h
  · rw [mmioWrite_env bus v hheld, mmioWrite_env bus' v (hmap.trans hheld)]
    exact (runHandler_follows hb (h.emit _)).map fun _ _ hab => hab.2

theorem accessWith_follows (hb : BusFollows p q bus bus') :
    BusFollows p q (accessWith bus) (accessWith bus') := by
  intro acc s t h
  cases acc with
  | read a w =>
    by_cases hr : region a = .mmio
    · rw [accessWith_read_mmio bus w s hr, accessWith_read_mmio bus' w t hr]
      exact (mmioRead_follows hb h a).map fun _ _ ⟨hv, hst⟩ => ⟨congrArg (keepLow w) hv, hst⟩
    · rw [accessWith_read_plain bus w s hr, accessWith_read_plain bus' w t hr, h.plainRead]
      exact .ok ⟨rfl, h⟩
  | write a w v =>
    cases hr : region a with
    | rom =>
      rw [accessWith_write_rom bus w v s hr, accessWith_write_rom bus' w v t hr]
      exact .ok ⟨rfl, h.emit _⟩
    | ram =>
      rw [accessWith_write_ram bus w v s hr, accessWith_write_ram bus' w v t hr]
      exact .ok ⟨rfl, h.update (f := storeRam a w v) fun _ _ => rfl⟩
    | mmio =>
      rw [accessWith_write_mmio bus w v s hr, accessWith_write_mmio bus' w v t hr]
      exact (mmioWrite_follows hb h a _).map fun _ _ hab => ⟨rfl, hab⟩
    | unmodelled =>
      rw [accessWith_write_unmodelled bus w v s hr, accessWith_write_unmodelled bus' w v t hr]
      exact .ok ⟨rfl, h⟩

end

/-- A larger bound answers what a smaller one does. -/
theorem access_follows (p q : List Event) {n m : Nat} (hnm : n ≤ m) :
    BusFollows p q (access n) (access m) := by
  induction n generalizing m with
  | zero => exact fun _ _ _ _ => rfl
  | succ n ih =>
    obtain ⟨m, rfl⟩ := Nat.exists_eq_add_one_of_ne_zero (Nat.ne_zero_of_lt hnm)
    exact accessWith_follows (ih (Nat.le_of_succ_le_succ hnm))

/-- Settles O15: the two runs start with the same output, so they end with the same one. -/
theorem nestingBoundOnlyAddsAnswers : Obligations.NestingBoundOnlyAddsAnswers := by
  intro n m acc s t v hnm h
  have hfollow := access_follows s.trace s.trace hnm acc s s (.refl s)
  rw [h] at hfollow
  obtain ⟨⟨v', t'⟩, hm, hv, ht⟩ := hfollow
  have hstate : t' = t := ht.eq_of_same_base
  rw [hm, hstate, ← show v = v' from hv]

/-! ### Everything made of accesses -/

section
variable {p q : List Event} {s t : State}

theorem memRead_follows (h : Rebased p q s t) (a : Word) (w : Width) :
    Follows (SameAnswer p q) (memRead a w s) (memRead a w t) :=
  access_follows p q le_rfl (.read a w) s t h

theorem memWrite_follows (h : Rebased p q s t) (a : Word) (w : Width) (v : Word) :
    Follows (Rebased p q) (memWrite a w v s) (memWrite a w v t) :=
  busWrite_follows (access_follows p q le_rfl) h a w v

theorem storeMany_follows (h : Rebased p q s t) (rs : List Reg) (a : Word) :
    Follows (Rebased p q) (storeMany rs a s) (storeMany rs a t) := by
  induction rs generalizing a s t with
  | nil => exact .ok h
  | cons r rs ih =>
    unfold storeMany
    rw [h.reg]
    exact (memWrite_follows h a .word _).bind fun _ _ hab => ih hab _

theorem loadMany_follows (h : Rebased p q s t) (rs : List Reg) (a : Word) :
    Follows (Rebased p q) (loadMany rs a s) (loadMany rs a t) := by
  induction rs generalizing a s t with
  | nil => exact .ok h
  | cons r rs ih =>
    refine (memRead_follows h a .word).bind fun ⟨v, s⟩ ⟨_, t⟩ ⟨hv, h⟩ => ?_
    cases hv
    exact ih (h.setReg r v) _

theorem pushWord_follows (h : Rebased p q s t) (v : Word) :
    Follows (Rebased p q) (pushWord v s) (pushWord v t) := by
  simp only [pushWord, h.reg, reg_setReg_same]
  exact memWrite_follows (h.setReg sp _) _ .word v

theorem popWord_follows (h : Rebased p q s t) :
    Follows (SameAnswer p q) (popWord s) (popWord t) := by
  unfold popWord
  rw [h.reg]
  refine (memRead_follows h _ .word).map fun ⟨v, s⟩ ⟨_, t⟩ ⟨hv, h⟩ => ⟨hv, ?_⟩
  rw [h.reg]
  exact h.setReg sp _

theorem pushRegs_follows (h : Rebased p q s t) (rs : List Reg) :
    Follows (Rebased p q) (pushRegs rs s) (pushRegs rs t) := by
  induction rs generalizing s t with
  | nil => exact .ok h
  | cons r rs ih =>
    unfold pushRegs
    rw [h.reg]
    exact (pushWord_follows h _).bind fun _ _ hab => ih hab

theorem popRegs_follows (h : Rebased p q s t) (rs : List Reg) :
    Follows (Rebased p q) (popRegs rs s) (popRegs rs t) := by
  induction rs generalizing s t with
  | nil => exact .ok h
  | cons r rs ih =>
    refine (popWord_follows h).bind fun ⟨v, s⟩ ⟨_, t⟩ ⟨hv, h⟩ => ?_
    cases hv
    exact ih (h.setReg r v)

theorem exceptionEntry_follows (h : Rebased p q s t) (vector : Word) :
    Follows (Rebased p q) (exceptionEntry vector s) (exceptionEntry vector t) := by
  unfold exceptionEntry
  rw [h.flags]
  refine (pushWord_follows h _).bind fun _ _ h1 => (pushRegs_follows h1 _).map fun _ _ h2 => ?_
  exact ((h2.branch vector).setReg lr sentinel).update
    (f := fun s => { s with excActive := true }) fun _ _ => rfl

theorem exceptionExit_follows (h : Rebased p q s t) :
    Follows (Rebased p q) (exceptionExit s) (exceptionExit t) := by
  refine (popRegs_follows h _).bind fun _ _ h1 =>
    (popWord_follows h1).bind fun ⟨v, s⟩ ⟨_, t⟩ ⟨hv, h2⟩ => ?_
  cases hv
  refine (popWord_follows (h2.setReg pc _)).map fun ⟨w, s⟩ ⟨_, t⟩ ⟨hw, h3⟩ => ?_
  cases hw
  exact h3.update (f := fun s => { s.setFlags (flagsOfPsr w) with excActive := false })
    fun _ _ => rfl

end

end Sys2Proof.Proofs
end

section
/-! # 10_state.md R23 and R28: what each instruction may change. One classification of `exec`, from which
the frame of registers and flags, the faults and the completion of every instruction follow -/

namespace Sys2Proof.Proofs

open Sys2Proof Sys2Proof.Machine Sys2Proof.Claims Sys2Proof.Laws

/-- R28: between `f` and `f'` at most the flags of the class changed. -/
structure FlagsKept (k : FlagClass) (f f' : Flags) : Prop where
  v : k ≠ .all → f'.v = f.v
  c : k = .nz ∨ k = .none → f'.c = f.c
  all : k = .none → f' = f

theorem FlagsKept.refl (c : FlagClass) (f : Flags) : FlagsKept c f f :=
  ⟨fun _ => rfl, fun _ => rfl, fun _ => rfl⟩

/-- The instruction makes the update `g` of registers and flags, which does not depend on the output. -/
structure Internal (i : Instr) (g : State → State) : Prop where
  runs : ∀ s, exec i s = .next (g s)
  blind : ∀ s tr, g { s with trace := tr } = { g s with trace := tr }
  regs : ∀ s r, r ∉ writes i → (g s).reg r = s.reg r
  flags : ∀ s, FlagsKept (flagClass i) s.flags (g s).flags

/-- What an instruction does: an update of registers and flags, one load, one store, or one of the four
multiple transfers. -/
inductive Does : Instr → Prop
  | internal {i : Instr} {g : State → State} (h : Internal i g) : Does i
  | load {i : Instr} {a : State → Word} {w : Width} {extend : Word → Word} {rt : Reg}
      (runs : ∀ s, exec i s = loadInto (a s) w extend rt s)
      (blind : ∀ s tr, a { s with trace := tr } = a s)
      (named : rt ∈ writes i) (flags : flagClass i = .none) : Does i
  | store {i : Instr} {a v : State → Word} {w : Width}
      (runs : ∀ s, exec i s = storeFrom (a s) w (v s) s)
      (blind : ∀ s tr, a { s with trace := tr } = a s ∧ v { s with trace := tr } = v s)
      (flags : flagClass i = .none) : Does i
  | push (rlist : BitVec 8) (lrBit : Bool) : Does (.push rlist lrBit)
  | pop (rlist : BitVec 8) (pcBit : Bool) : Does (.pop rlist pcBit)
  | stmia (rn : Reg) (rlist : BitVec 8) : Does (.stmia rn rlist)
  | ldmia (rn : Reg) (rlist : BitVec 8) : Does (.ldmia rn rlist)

/-! ### The updates -/

theorem does_nothing {i : Instr} (runs : ∀ s, exec i s = .next s) : Does i :=
  .internal (g := id)
    { runs := runs
      blind := fun _ _ => rfl
      regs := fun _ _ _ => rfl
      flags := fun _ => .refl _ _ }

/-- One register and the flags are written, the flags as the class allows. -/
theorem does_putFlags {i : Instr} {rd : Reg} {v : State → Word} {f : State → Flags}
    (runs : ∀ s, exec i s = .next ((s.setReg rd (v s)).setFlags (f s)))
    (blind : ∀ s tr, v { s with trace := tr } = v s ∧ f { s with trace := tr } = f s)
    (named : rd ∈ writes i) (kept : ∀ s, FlagsKept (flagClass i) s.flags (f s)) : Does i :=
  .internal
    { runs := runs
      blind := fun s tr => by rw [(blind s tr).1, (blind s tr).2]; rfl
      regs := fun s r hr => reg_setReg_other s _ fun h => hr (h ▸ named)
      flags := kept }

/-- The flags alone are written, as the class allows. -/
theorem does_putFlagsOnly {i : Instr} {f : State → Flags} (runs : ∀ s, exec i s = .next (s.setFlags (f s)))
    (blind : ∀ s tr, f { s with trace := tr } = f s)
    (kept : ∀ s, FlagsKept (flagClass i) s.flags (f s)) : Does i :=
  .internal
    { runs := runs
      blind := fun s tr => by rw [blind s tr]; rfl
      regs := fun _ _ _ => rfl
      flags := kept }

/-- One register is written and no flag. -/
theorem does_writeReg {i : Instr} {rd : Reg} {v : State → Word} (runs : ∀ s, exec i s = writeReg rd (v s) s)
    (blind : ∀ s tr, v { s with trace := tr } = v s) (named : writes i = [rd]) :
    Does i :=
  does_putFlags (f := fun s => s.flags) runs (fun s tr => ⟨blind s tr, rfl⟩)
    (named ▸ List.mem_singleton_self rd) fun _ => .refl _ _

theorem flagsKept_all (f f' : Flags) : FlagsKept .all f f' :=
  ⟨fun h => absurd rfl h, fun h => by simp at h, fun h => nomatch h⟩

theorem flagsKept_nzc (f : Flags) (r : Word) (c : Bool) : FlagsKept .nzc f (setNZC f r c) :=
  ⟨fun _ => rfl, fun h => by simp at h, fun h => nomatch h⟩

theorem flagsKept_nz (f : Flags) (r : Word) : FlagsKept .nz f (setNZ f r) :=
  ⟨fun _ => rfl, fun _ => rfl, fun h => nomatch h⟩

theorem does_writeSum {i : Instr} {rd : Reg} {y : State → Sum} (runs : ∀ s, exec i s = writeSum rd (y s) s)
    (blind : ∀ s tr, y { s with trace := tr } = y s) (named : writes i = [rd])
    (flags : flagClass i = .all) : Does i :=
  does_putFlags runs (fun s tr => by rw [blind s tr]; exact ⟨rfl, rfl⟩)
    (named ▸ List.mem_singleton_self rd) fun _ => flags ▸ flagsKept_all _ _

theorem does_compareSum {i : Instr} {y : State → Sum} (runs : ∀ s, exec i s = compareSum (y s) s)
    (blind : ∀ s tr, y { s with trace := tr } = y s) (flags : flagClass i = .all) : Does i :=
  does_putFlagsOnly runs (fun s tr => by rw [blind s tr]) fun _ => flags ▸ flagsKept_all _ _

theorem does_writeLogical {i : Instr} {rd : Reg} {v : State → Word}
    (runs : ∀ s, exec i s = writeLogical rd (v s) s) (blind : ∀ s tr, v { s with trace := tr } = v s)
    (named : writes i = [rd]) (flags : flagClass i = .nz) : Does i :=
  does_putFlags runs (fun s tr => by rw [blind s tr]; exact ⟨rfl, rfl⟩)
    (named ▸ List.mem_singleton_self rd) fun _ => flags ▸ flagsKept_nz _ _

theorem does_tstReg (rn rm : Reg) : Does (.tstReg rn rm) :=
  does_putFlagsOnly (fun _ => rfl) (fun _ _ => rfl) fun _ => flagsKept_nz _ _

theorem does_writeShift {i : Instr} {rd : Reg} {y : State → Shifted}
    (runs : ∀ s, exec i s = writeShift rd (y s) s) (blind : ∀ s tr, y { s with trace := tr } = y s)
    (named : writes i = [rd]) (flags : flagClass i = .nzc) : Does i :=
  does_putFlags runs (fun s tr => by rw [blind s tr]; exact ⟨rfl, rfl⟩)
    (named ▸ List.mem_singleton_self rd) fun _ => flags ▸ flagsKept_nzc _ _ _

/-- The program counter goes to a target, perhaps after another register was written. -/
theorem does_branch {i : Instr} {a : State → Word} (runs : ∀ s, exec i s = .next (branch (a s) s))
    (blind : ∀ s tr, a { s with trace := tr } = a s) (named : writes i = [pc]) : Does i :=
  .internal
    { runs := runs
      blind := fun s tr => by rw [blind s tr]; rfl
      regs := fun s r hr => reg_setReg_other s _ fun h => hr (by simp [named, h])
      flags := fun _ => .refl _ _ }

theorem does_branchAndLink {i : Instr} {a v : State → Word}
    (runs : ∀ s, exec i s = .next (branch (a s) (s.setReg lr (v s))))
    (blind : ∀ s tr, a { s with trace := tr } = a s ∧ v { s with trace := tr } = v s)
    (named : writes i = [lr, pc]) : Does i :=
  .internal
    { runs := runs
      blind := fun s tr => by rw [(blind s tr).1, (blind s tr).2]; rfl
      regs := fun s r hr => by
        have hlr : r ≠ lr := fun h => hr (by simp [named, h])
        have hpc : r ≠ pc := fun h => hr (by simp [named, h])
        rw [reg_branch, if_neg hpc, reg_setReg_other s _ hlr]
      flags := fun _ => .refl _ _ }

theorem does_skipSecondHalf {i : Instr} (runs : ∀ s, exec i s = skipSecondHalf s)
    (named : writes i = [pc]) : Does i :=
  does_writeReg (v := fun s => s.reg pc + 2) runs (fun _ _ => rfl) named

theorem does_condBranch {i : Instr} {c : Cond} {imm8 : BitVec 8}
    (runs : ∀ s, exec i s = condBranch c imm8 s) (named : writes i = [pc]) : Does i :=
  .internal
    { runs := runs
      blind := fun s tr => by simp only; split <;> rfl
      regs := fun s r hr => by
        split
        · exact reg_setReg_other s _ fun h => hr (by simp [named, h])
        · rfl
      flags := fun s => by split <;> exact .refl _ _ }

theorem does_writeRegOrBranch {i : Instr} {rd : Reg} {v : State → Word}
    (runs : ∀ s, exec i s = writeRegOrBranch rd (v s) s)
    (blind : ∀ s tr, v { s with trace := tr } = v s) (named : writes i = [rd]) : Does i :=
  .internal
    { runs := runs
      blind := fun s tr => by rw [blind s tr]; split <;> rfl
      regs := fun s r hr => by
        have hrd : r ≠ rd := fun h => hr (by simp [named, h])
        split
        · exact reg_setReg_other s _ fun h => hrd (h.trans (Eq.symm ‹rd = pc›))
        · exact reg_setReg_other s _ hrd
      flags := fun s => by split <;> exact .refl _ _ }

/-- Every instruction does one of these things. -/
theorem exec_does (i : Instr) : Does i := by
  cases i with
  | lslImm rd rm imm5 => exact does_writeShift (fun _ => rfl) (fun _ _ => rfl) rfl rfl
  | lsrImm rd rm imm5 => exact does_writeShift (fun _ => rfl) (fun _ _ => rfl) rfl rfl
  | asrImm rd rm imm5 => exact does_writeShift (fun _ => rfl) (fun _ _ => rfl) rfl rfl
  | addReg rd rn rm => exact does_writeSum (fun _ => rfl) (fun _ _ => rfl) rfl rfl
  | subReg rd rn rm => exact does_writeSum (fun _ => rfl) (fun _ _ => rfl) rfl rfl
  | addImm3 rd rn imm3 => exact does_writeSum (fun _ => rfl) (fun _ _ => rfl) rfl rfl
  | subImm3 rd rn imm3 => exact does_writeSum (fun _ => rfl) (fun _ _ => rfl) rfl rfl
  | movImm8 rd imm8 => exact does_writeLogical (fun _ => rfl) (fun _ _ => rfl) rfl rfl
  | cmpImm8 rn imm8 => exact does_compareSum (fun _ => rfl) (fun _ _ => rfl) rfl
  | addImm8 rdn imm8 => exact does_writeSum (fun _ => rfl) (fun _ _ => rfl) rfl rfl
  | subImm8 rdn imm8 => exact does_writeSum (fun _ => rfl) (fun _ _ => rfl) rfl rfl
  | andReg rdn rm => exact does_writeLogical (fun _ => rfl) (fun _ _ => rfl) rfl rfl
  | eorReg rdn rm => exact does_writeLogical (fun _ => rfl) (fun _ _ => rfl) rfl rfl
  | lslReg rdn rs => exact does_writeShift (fun _ => rfl) (fun _ _ => rfl) rfl rfl
  | lsrReg rdn rs => exact does_writeShift (fun _ => rfl) (fun _ _ => rfl) rfl rfl
  | asrReg rdn rs => exact does_writeShift (fun _ => rfl) (fun _ _ => rfl) rfl rfl
  | adcReg rdn rm => exact does_writeSum (fun _ => rfl) (fun _ _ => rfl) rfl rfl
  | sbcReg rdn rm => exact does_writeSum (fun _ => rfl) (fun _ _ => rfl) rfl rfl
  | rorReg rdn rs => exact does_nothing (fun _ => rfl)
  | tstReg rn rm => exact does_tstReg rn rm
  | negReg rd rm => exact does_writeSum (fun _ => rfl) (fun _ _ => rfl) rfl rfl
  | cmpReg rn rm => exact does_compareSum (fun _ => rfl) (fun _ _ => rfl) rfl
  | cmnReg rn rm => exact does_compareSum (fun _ => rfl) (fun _ _ => rfl) rfl
  | orrReg rdn rm => exact does_writeLogical (fun _ => rfl) (fun _ _ => rfl) rfl rfl
  | mulReg rdn rm => exact does_writeLogical (fun _ => rfl) (fun _ _ => rfl) rfl rfl
  | bicReg rdn rm => exact does_writeLogical (fun _ => rfl) (fun _ _ => rfl) rfl rfl
  | mvnReg rd rm => exact does_writeLogical (fun _ => rfl) (fun _ _ => rfl) rfl rfl
  | addHi rd rm => exact does_writeRegOrBranch (fun _ => rfl) (fun _ _ => rfl) rfl
  | cmpHi rn rm => exact does_compareSum (fun _ => rfl) (fun _ _ => rfl) rfl
  | movHi rd rm => exact does_writeRegOrBranch (fun _ => rfl) (fun _ _ => rfl) rfl
  | bx rm => exact does_branch (fun _ => rfl) (fun _ _ => rfl) rfl
  | blxReg rm => exact does_branchAndLink (fun _ => rfl) (fun _ _ => ⟨rfl, rfl⟩) rfl
  | ldrLit rt imm8 => exact .load (fun _ => rfl) (fun _ _ => rfl) (List.mem_singleton_self _) rfl
  | strReg rt rn rm => exact .store (fun _ => rfl) (fun _ _ => ⟨rfl, rfl⟩) rfl
  | strhReg rt rn rm => exact .store (fun _ => rfl) (fun _ _ => ⟨rfl, rfl⟩) rfl
  | strbReg rt rn rm => exact .store (fun _ => rfl) (fun _ _ => ⟨rfl, rfl⟩) rfl
  | ldrsbReg rt rn rm => exact .load (fun _ => rfl) (fun _ _ => rfl) (List.mem_singleton_self _) rfl
  | ldrReg rt rn rm => exact .load (fun _ => rfl) (fun _ _ => rfl) (List.mem_singleton_self _) rfl
  | ldrhReg rt rn rm => exact .load (fun _ => rfl) (fun _ _ => rfl) (List.mem_singleton_self _) rfl
  | ldrbReg rt rn rm => exact .load (fun _ => rfl) (fun _ _ => rfl) (List.mem_singleton_self _) rfl
  | ldrshReg rt rn rm => exact .load (fun _ => rfl) (fun _ _ => rfl) (List.mem_singleton_self _) rfl
  | strImm5 rt rn imm5 => exact .store (fun _ => rfl) (fun _ _ => ⟨rfl, rfl⟩) rfl
  | ldrImm5 rt rn imm5 => exact .load (fun _ => rfl) (fun _ _ => rfl) (List.mem_singleton_self _) rfl
  | strbImm5 rt rn imm5 => exact .store (fun _ => rfl) (fun _ _ => ⟨rfl, rfl⟩) rfl
  | ldrbImm5 rt rn imm5 => exact .load (fun _ => rfl) (fun _ _ => rfl) (List.mem_singleton_self _) rfl
  | strhImm5 rt rn imm5 => exact .store (fun _ => rfl) (fun _ _ => ⟨rfl, rfl⟩) rfl
  | ldrhImm5 rt rn imm5 => exact .load (fun _ => rfl) (fun _ _ => rfl) (List.mem_singleton_self _) rfl
  | strSp rt imm8 => exact .store (fun _ => rfl) (fun _ _ => ⟨rfl, rfl⟩) rfl
  | ldrSp rt imm8 => exact .load (fun _ => rfl) (fun _ _ => rfl) (List.mem_singleton_self _) rfl
  | adr rd imm8 => exact does_writeReg (fun _ => rfl) (fun _ _ => rfl) rfl
  | addRdSp rd imm8 => exact does_writeReg (fun _ => rfl) (fun _ _ => rfl) rfl
  | addSpImm7 imm7 => exact does_writeReg (fun _ => rfl) (fun _ _ => rfl) rfl
  | subSpImm7 imm7 => exact does_writeReg (fun _ => rfl) (fun _ _ => rfl) rfl
  | sxth rd rm => exact does_writeReg (fun _ => rfl) (fun _ _ => rfl) rfl
  | sxtb rd rm => exact does_writeReg (fun _ => rfl) (fun _ _ => rfl) rfl
  | uxth rd rm => exact does_writeReg (fun _ => rfl) (fun _ _ => rfl) rfl
  | uxtb rd rm => exact does_writeReg (fun _ => rfl) (fun _ _ => rfl) rfl
  | rev rd rm => exact does_writeReg (fun _ => rfl) (fun _ _ => rfl) rfl
  | rev16 rd rm => exact does_writeReg (fun _ => rfl) (fun _ _ => rfl) rfl
  | revsh rd rm => exact does_writeReg (fun _ => rfl) (fun _ _ => rfl) rfl
  | push rlist lrBit => exact .push rlist lrBit
  | pop rlist pcBit => exact .pop rlist pcBit
  | stmia rn rlist => exact .stmia rn rlist
  | ldmia rn rlist => exact .ldmia rn rlist
  | beq imm8 => exact does_condBranch (fun _ => rfl) rfl
  | bne imm8 => exact does_condBranch (fun _ => rfl) rfl
  | bcs imm8 => exact does_condBranch (fun _ => rfl) rfl
  | bcc imm8 => exact does_condBranch (fun _ => rfl) rfl
  | bmi imm8 => exact does_condBranch (fun _ => rfl) rfl
  | bpl imm8 => exact does_condBranch (fun _ => rfl) rfl
  | bvs imm8 => exact does_condBranch (fun _ => rfl) rfl
  | bvc imm8 => exact does_condBranch (fun _ => rfl) rfl
  | bhi imm8 => exact does_condBranch (fun _ => rfl) rfl
  | bls imm8 => exact does_condBranch (fun _ => rfl) rfl
  | bge imm8 => exact does_condBranch (fun _ => rfl) rfl
  | blt imm8 => exact does_condBranch (fun _ => rfl) rfl
  | bgt imm8 => exact does_condBranch (fun _ => rfl) rfl
  | ble imm8 => exact does_condBranch (fun _ => rfl) rfl
  | svc imm8 => exact does_nothing (fun _ => rfl)
  | b imm11 => exact does_branch (fun _ => rfl) (fun _ _ => rfl) rfl
  | blPrefix imm11 => exact does_writeReg (fun _ => rfl) (fun _ _ => rfl) rfl
  | blSuffix imm11 => exact does_branchAndLink (fun _ => rfl) (fun _ _ => ⟨rfl, rfl⟩) rfl
  | mrs rd sysm => exact does_skipSecondHalf (fun _ => rfl) rfl
  | msr rn sysm => exact does_skipSecondHalf (fun _ => rfl) rfl
  | dsb option => exact does_skipSecondHalf (fun _ => rfl) rfl
  | dmb option => exact does_skipSecondHalf (fun _ => rfl) rfl
  | isb option => exact does_skipSecondHalf (fun _ => rfl) rfl

end Sys2Proof.Proofs
end

section
/-! # 40_step_engine.md R146 and 60_exceptions.md R360: the output is never read, and an instruction stops
only by the bound on nested accesses -/

namespace Sys2Proof.Proofs

open Sys2Proof Sys2Proof.Machine Sys2Proof.Claims Sys2Proof.Laws

section
variable {p q : List Event} {s t : State}

theorem loadInto_follows (h : Rebased p q s t) (a : Word) (w : Width) (extend : Word → Word) (rt : Reg) :
    ∃ x y, loadInto a w extend rt s = answer x ∧ loadInto a w extend rt t = answer y ∧
      Follows (Rebased p q) x y := by
  refine ⟨_, _, rfl, rfl, (memRead_follows h a w).map fun ⟨v, s⟩ ⟨_, t⟩ ⟨hv, hst⟩ => ?_⟩
  cases hv
  exact hst.setReg rt _

theorem popPc_follows (h : Rebased p q s t) (b : Bool) (a : Word) :
    Follows (Rebased p q) (popPc b a s) (popPc b a t) := by
  cases b with
  | false => exact .ok h
  | true =>
    refine (memRead_follows h a .word).map fun ⟨v, s⟩ ⟨_, t⟩ ⟨hv, hst⟩ => ?_
    cases hv
    exact hst.branch v

theorem execPush_follows (h : Rebased p q s t) (rlist : BitVec 8) (b : Bool) :
    ∃ x y, execPush rlist b s = answer x ∧ execPush rlist b t = answer y ∧
      Follows (Rebased p q) x y := by
  refine ⟨_, _, rfl, rfl, ?_⟩
  rw [h.reg]
  exact (storeMany_follows h _ _).map fun _ _ hst => hst.setReg sp _

theorem execPop_follows (h : Rebased p q s t) (rlist : BitVec 8) (b : Bool) :
    ∃ x y, execPop rlist b s = answer x ∧ execPop rlist b t = answer y ∧
      Follows (Rebased p q) x y := by
  refine ⟨_, _, rfl, rfl, ?_⟩
  rw [h.reg]
  refine (loadMany_follows h _ _).bind fun _ _ h1 => (popPc_follows h1 b _).map fun _ _ h2 => ?_
  rw [h2.reg]
  exact h2.setReg sp _

theorem execStmia_follows (h : Rebased p q s t) (rn : Reg) (rlist : BitVec 8) :
    ∃ x y, execStmia rn rlist s = answer x ∧ execStmia rn rlist t = answer y ∧
      Follows (Rebased p q) x y := by
  refine ⟨_, _, rfl, rfl, ?_⟩
  rw [h.reg]
  refine (storeMany_follows h _ _).map fun _ _ hst => ?_
  rw [hst.reg]
  exact hst.setReg rn _

theorem execLdmia_follows (h : Rebased p q s t) (rn : Reg) (rlist : BitVec 8) :
    ∃ x y, execLdmia rn rlist s = answer x ∧ execLdmia rn rlist t = answer y ∧
      Follows (Rebased p q) x y := by
  refine ⟨_, _, rfl, rfl, ?_⟩
  rw [h.reg]
  refine (loadMany_follows h _ _).map fun _ _ hst => ?_
  split
  · exact hst
  · exact hst.setReg rn _

/-- Executed on states that differ by the output before, an instruction answers alike. -/
theorem exec_follows (h : Rebased p q s t) (i : Instr) :
    ∃ x y, exec i s = answer x ∧ exec i t = answer y ∧ Follows (Rebased p q) x y := by
  cases exec_does i with
  | internal hi => exact ⟨.ok _, .ok _, hi.runs s, hi.runs t, .ok (h.update hi.blind)⟩
  | load runs blind =>
    rw [runs, runs]
    obtain ⟨s, l⟩ := h
    rw [blind s (l ++ p), blind s (l ++ q)]
    exact loadInto_follows (.mk s l) _ _ _ _
  | store runs blind =>
    rw [runs, runs]
    obtain ⟨s, l⟩ := h
    rw [(blind s (l ++ p)).1, (blind s (l ++ p)).2, (blind s (l ++ q)).1, (blind s (l ++ q)).2]
    exact ⟨_, _, rfl, rfl, memWrite_follows (.mk s l) _ _ _⟩
  | push rlist b => exact execPush_follows h rlist b
  | pop rlist b => exact execPop_follows h rlist b
  | stmia rn rlist => exact execStmia_follows h rn rlist
  | ldmia rn rlist => exact execLdmia_follows h rn rlist

end

theorem exec_fault {i : Instr} {s : State} {f : Fault} (h : exec i s = .fault f) : f = .accessHang := by
  obtain ⟨x, y, hx, -, hfollow⟩ := exec_follows (.refl s) i
  rw [hx] at h
  cases x with
  | ok u => cases h
  | error e => cases h; exact hfollow

/-- Settles O45: an instruction is only made of accesses and small changes. -/
theorem instructionsRaiseNothing : Obligations.InstructionsRaiseNothing := by
  refine fun i s => ⟨exec_not_refused i s, fun f => exec_fault, fun t h => ?_⟩
  have hmoves := exec_moves h
  have hsame := hmoves.untouched
  exact ⟨hsame.excActive, hsame.tickPending, hsame.tickCount, hsame.vecTick, hsame.vecDma,
    hmoves.keeps fun _ _ hm => move_keeps_dmaPending hm⟩

/-! ### The step -/

/-- Both computations answer, alike, or both stop, for the same reason. -/
def Agree {α : Type} (r : α → α → Prop) (x y : Except Fault α) : Prop :=
  (∃ a b, x = .ok a ∧ y = .ok b ∧ r a b) ∨ ∃ f, x = .error f ∧ y = .error f

theorem agree_of_follows {α : Type} {r r' : α → α → Prop} {x y : Except Fault α} (h : Follows r x y)
    (h' : Follows r' y x) : Agree r x y := by
  cases x with
  | ok a =>
    obtain ⟨b, rfl, hab⟩ := h
    exact .inl ⟨a, b, rfl, rfl, hab⟩
  | error f =>
    cases y with
    | ok b =>
      obtain ⟨a, ha, -⟩ := h'
      cases ha
    | error g => exact .inr ⟨f, rfl, congrArg _ ((h' : g = _).trans (h : f = _).symm)⟩

theorem Agree.bind {α β : Type} {r : α → α → Prop} {r' : β → β → Prop} {x y : Except Fault α}
    {f g : α → Except Fault β} (h : Agree r x y) (hfg : ∀ a b, r a b → Agree r' (f a) (g b)) :
    Agree r' (x.bind f) (y.bind g) := by
  rcases h with ⟨a, b, rfl, rfl, hab⟩ | ⟨e, rfl, rfl⟩
  · exact hfg a b hab
  · exact .inr ⟨e, rfl, rfl⟩

/-- Both results are states that differ at most in the output, or the same fault or refusal. -/
def ResultsAgree : Result → Result → Prop
  | .next t, .next u => sameButOutput t u
  | .fault f, .fault g => f = g
  | .refused f, .refused g => f = g
  | _, _ => False

theorem Rebased.sameButOutput {p q : List Event} {s t : State} (h : Rebased p q s t) :
    sameButOutput s t := by
  obtain ⟨s, l⟩ := h
  rfl

section
variable {p q : List Event} {s t : State}

theorem answer_agree {x y : Except Fault State} (h : Agree (Rebased p q) x y) :
    ResultsAgree (answer x) (answer y) := by
  rcases h with ⟨a, b, rfl, rfl, hab⟩ | ⟨f, rfl, rfl⟩
  · exact hab.sameButOutput
  · exact rfl

theorem reportedEntry_follows (h : Rebased p q s t) {v w : Word} (hvector : w = v) (e : Event) :
    Follows (Rebased p q) ((exceptionEntry v s).map fun u => u.emit e)
      ((exceptionEntry w t).map fun u => u.emit e) := by
  subst hvector
  exact (exceptionEntry_follows h _).map fun _ _ hst => hst.emit e

theorem serviceInterrupt_follows (h : Rebased p q s t) (src : Source) :
    Follows (Rebased p q) (serviceInterrupt src s) (serviceInterrupt src t) := by
  have hdma : t.vecDma = s.vecDma := by obtain ⟨s, l⟩ := h; rfl
  have htick : t.vecTick = s.vecTick := by obtain ⟨s, l⟩ := h; rfl
  cases src with
  | dma =>
    exact reportedEntry_follows (h.update (f := fun s => { s with dmaPending := false })
      fun _ _ => rfl) hdma _
  | tick =>
    exact reportedEntry_follows (h.update (f := fun s => { s with tickPending := false })
      fun _ _ => rfl) htick _

theorem serviceInterrupt_agree (h : Rebased p q s t) (src : Source) :
    Agree (Rebased p q) (serviceInterrupt src s) (serviceInterrupt src t) :=
  agree_of_follows (serviceInterrupt_follows h src) (serviceInterrupt_follows h.symm src)

theorem instrAddr_rebased (h : Rebased p q s t) : instrAddr t = instrAddr s :=
  congrArg (· - pipe) (h.reg pc)

theorem exitLoop_agree (h : Rebased p q s t) (n : Nat) :
    Agree (Rebased p q) (exitLoop n s) (exitLoop n t) := by
  induction n generalizing s t with
  | zero =>
    unfold exitLoop
    rw [instrAddr_rebased h]
    split
    · exact .inr ⟨_, rfl, rfl⟩
    · exact .inl ⟨s, t, rfl, rfl, h⟩
  | succ n ih =>
    by_cases hsent : instrAddr s = sentinel
    · rw [exitLoop_at_sentinel n hsent, exitLoop_at_sentinel n ((instrAddr_rebased h).trans hsent)]
      have hexit : Agree (Rebased p q) (exceptionExit s) (exceptionExit t) :=
        agree_of_follows (exceptionExit_follows h) (exceptionExit_follows h.symm)
      exact hexit.bind fun _ _ hst => ih (hst.emit _)
    · rw [exitLoop_elsewhere _ hsent,
        exitLoop_elsewhere _ ((instrAddr_rebased h).trans_ne hsent)]
      exact .inl ⟨s, t, rfl, rfl, h⟩

theorem retire_blind (e : Event) (s : State) (tr : List Event) :
    retire e { s with trace := tr } = { retire e s with trace := e :: tr } := by
  unfold retire countTick
  simp only
  split <;> rfl

theorem Rebased.retire (h : Rebased p q s t) (e : Event) : Rebased p q (retire e s) (retire e t) := by
  obtain ⟨s, l⟩ := h
  rw [retire_blind e s (l ++ p), retire_blind e s (l ++ q)]
  exact .mk _ (e :: l)

theorem retireResult_agree {x y : Except Fault State} (h : Agree (Rebased p q) x y) (i : Instr) :
    ResultsAgree (retireResult i (answer x)) (retireResult i (answer y)) := by
  rcases h with ⟨a, b, rfl, rfl, hab⟩ | ⟨f, rfl, rfl⟩
  · exact (hab.retire _).sameButOutput
  · exact rfl

theorem executeAt_agree (h : Rebased p q s t) : ResultsAgree (executeAt s) (executeAt t) := by
  have hfetch (a : Word) : fetch t a = fetch s a := by obtain ⟨s, l⟩ := h; rfl
  have hadv : Rebased p q (advance s) (advance t) := h.update (f := advance) fun _ _ => rfl
  unfold executeAt
  rw [instrAddr_rebased h, hfetch]
  cases fetch s (instrAddr s) with
  | none => exact (hadv.retire _).sameButOutput
  | some i =>
    obtain ⟨x, y, hx, hy, hxy⟩ := exec_follows hadv i
    obtain ⟨y', x', hy', hx', hyx⟩ := exec_follows hadv.symm i
    have answer_injective {x x' : Except Fault State} (h : answer x = answer x') : x = x' := by
      cases x <;> cases x' <;> cases h <;> rfl
    cases answer_injective (hx.symm.trans hx')
    cases answer_injective (hy.symm.trans hy')
    simp only [hx, hy]
    exact retireResult_agree (agree_of_follows hxy hyx) i

end

/-- Settles O50: the interrupt check and each stage after it answer alike whatever the output before. -/
theorem outputChangesNothing : Obligations.OutputChangesNothing := by
  intro s tr
  have h : Rebased s.trace tr s { s with trace := tr } := .start s tr
  show ResultsAgree (engineStep s) (engineStep { s with trace := tr })
  have hcheck : pendingSource { s with trace := tr } = pendingSource s := rfl
  unfold engineStep
  rw [hcheck]
  cases pendingSource s with
  | some src => exact answer_agree (serviceInterrupt_agree h src)
  | none =>
    simp only
    rcases exitLoop_agree h exitFuel with ⟨u, v, hu, hv, huv⟩ | ⟨f, hu, hv⟩
    · rw [hu, hv]
      exact executeAt_agree huv
    · rw [hu, hv]
      exact rfl

end Sys2Proof.Proofs
end

section
/-! # 10_state.md R23, R28: where no handler call is listed, an access changes no register and no flag, so
that an instruction changes only what it names -/

namespace Sys2Proof.Proofs

open Sys2Proof Sys2Proof.Machine Sys2Proof.Claims Sys2Proof.Laws

/-- No register and no flag changed, and still no handler call is listed (log entry 6). -/
structure Calm (s t : State) : Prop where
  regs : t.regs = s.regs
  flags : t.flags = s.flags
  env : t.env = []

theorem Calm.refl {s : State} (hs : s.env = []) : Calm s s := ⟨rfl, rfl, hs⟩

theorem Calm.trans {s t u : State} (h : Calm s t) (k : Calm t u) : Calm s u :=
  ⟨k.regs.trans h.regs, k.flags.trans h.flags, k.env⟩

theorem Calm.reg {s t : State} (h : Calm s t) (r : Reg) : t.reg r = s.reg r := by
  unfold State.reg
  rw [h.regs]

/-- A bus whose accesses are calm where no handler call is listed. -/
def BusCalm (bus : Bus) : Prop :=
  ∀ acc s r, s.env = [] → bus acc s = .ok r → Calm s r.2

section
variable {bus : Bus} {s t : State}

theorem busWrite_calm (hb : BusCalm bus) (hs : s.env = []) {a : Word} {w : Width} {v : Word}
    (h : busWrite bus a w v s = .ok t) : Calm s t := by
  obtain ⟨r, hr, rfl⟩ := map_eq_ok h
  exact hb _ s r hs hr

/-- Beyond the listed entries a handler makes no call. -/
theorem runHandler_calm (hs : s.env = []) {r : Word × State} (h : runHandler bus s = .ok r) :
    Calm s r.2 := by
  unfold runHandler nextReply at h
  simp only [hs, runCalls] at h
  cases h
  exact ⟨rfl, rfl, rfl⟩

/-- A call is reported first. -/
theorem reportedHandler_calm (hs : s.env = []) {e : Event} {r : Word × State}
    (h : runHandler bus (s.emit e) = .ok r) : Calm s r.2 :=
  Calm.trans (t := s.emit e) ⟨rfl, rfl, hs⟩ (runHandler_calm (s := s.emit e) hs h)

theorem copyBytes_calm (hb : BusCalm bus) {n : Nat} {src dst : Word} (hs : s.env = [])
    (h : copyBytes bus n src dst s = .ok t) : Calm s t := by
  induction n generalizing src dst s with
  | zero => cases h; exact .refl hs
  | succ n ih =>
    obtain ⟨r, hr, h⟩ := bind_eq_ok h
    obtain ⟨u, hu, h⟩ := bind_eq_ok h
    have hread := hb _ s r hs hr
    have hwrite := busWrite_calm hb hread.env hu
    exact hread.trans (hwrite.trans (ih hwrite.env h))

theorem dmaTransfer_calm (hb : BusCalm bus) (hs : s.env = []) (h : dmaTransfer bus s = .ok t) :
    Calm s t := by
  obtain ⟨count, h1, h⟩ := bind_eq_ok h
  obtain ⟨src, h2, h⟩ := bind_eq_ok h
  obtain ⟨dst, h3, h⟩ := bind_eq_ok h
  obtain ⟨next, h4, h⟩ := bind_eq_ok h
  obtain ⟨u, h5, rfl⟩ := map_eq_ok h
  have c1 := hb _ s count hs h1
  have c2 := hb _ _ src c1.env h2
  have c3 := hb _ _ dst c2.env h3
  have c4 := hb _ _ next c3.env h4
  have c5 := copyBytes_calm hb c4.env h5
  exact c1.trans (c2.trans (c3.trans (c4.trans (c5.trans ⟨rfl, rfl, c5.env⟩))))

theorem mmioRead_calm (hs : s.env = []) {a : Word} {r : Word × State}
    (h : mmioRead bus a s = .ok r) : Calm s r.2 := by
  unfold mmioRead at h
  split at h
  · cases h; exact .refl hs
  · split at h
    · cases h; exact .refl hs
    · exact reportedHandler_calm hs h
    · cases h; exact ⟨rfl, rfl, hs⟩

theorem mmioWrite_calm (hb : BusCalm bus) (hs : s.env = []) {a v : Word}
    (h : mmioWrite bus a v s = .ok t) : Calm s t := by
  unfold mmioWrite at h
  split at h
  · cases h; exact ⟨rfl, rfl, hs⟩
  · cases h; exact ⟨rfl, rfl, hs⟩
  · exact dmaTransfer_calm hb hs h
  · obtain ⟨r, hr, rfl⟩ := map_eq_ok h
    exact reportedHandler_calm hs hr
  · cases h; exact ⟨rfl, rfl, hs⟩

theorem accessWith_calm (hb : BusCalm bus) : BusCalm (accessWith bus) := by
  intro acc s r hs h
  cases acc with
  | read a w =>
    by_cases hr : region a = .mmio
    · rw [accessWith_read_mmio bus w s hr] at h
      obtain ⟨y, hy, rfl⟩ := map_eq_ok h
      exact (mmioRead_calm hs hy : Calm s y.2)
    · rw [accessWith_read_plain bus w s hr] at h
      cases h; exact .refl hs
  | write a w v =>
    cases hr : region a with
    | rom => rw [accessWith_write_rom bus w v s hr] at h; cases h; exact ⟨rfl, rfl, hs⟩
    | ram => rw [accessWith_write_ram bus w v s hr] at h; cases h; exact ⟨rfl, rfl, hs⟩
    | mmio =>
      rw [accessWith_write_mmio bus w v s hr] at h
      obtain ⟨u, hu, rfl⟩ := map_eq_ok h
      exact mmioWrite_calm hb hs hu
    | unmodelled => rw [accessWith_write_unmodelled bus w v s hr] at h; cases h; exact .refl hs

theorem access_calm (n : Nat) : BusCalm (access n) := by
  induction n with
  | zero => exact fun _ _ _ _ h => nomatch h
  | succ n ih => exact accessWith_calm ih

theorem memRead_calm (hs : s.env = []) {a : Word} {w : Width} {r : Word × State}
    (h : memRead a w s = .ok r) : Calm s r.2 := access_calm _ _ s r hs h

theorem memWrite_calm (hs : s.env = []) {a : Word} {w : Width} {v : Word}
    (h : memWrite a w v s = .ok t) : Calm s t := busWrite_calm (access_calm _) hs h

theorem storeMany_calm (hs : s.env = []) {rs : List Reg} {a : Word} (h : storeMany rs a s = .ok t) :
    Calm s t := by
  induction rs generalizing a s with
  | nil => cases h; exact .refl hs
  | cons r rs ih =>
    obtain ⟨u, hu, h⟩ := bind_eq_ok h
    have hwrite := memWrite_calm hs hu
    exact hwrite.trans (ih hwrite.env h)

end

/-! ### Only the named registers, and no flag -/

/-- Outside `rs` no register changed, no flag did, and still no handler call is listed. -/
structure CalmBut (rs : List Reg) (s t : State) : Prop where
  reg : ∀ r, r ∉ rs → t.reg r = s.reg r
  flags : t.flags = s.flags
  env : t.env = []

theorem Calm.but {s t : State} (h : Calm s t) (rs : List Reg) : CalmBut rs s t :=
  ⟨fun r _ => h.reg r, h.flags, h.env⟩

theorem CalmBut.trans {rs : List Reg} {s t u : State} (h : CalmBut rs s t) (k : CalmBut rs t u) :
    CalmBut rs s u :=
  ⟨fun r hr => (k.reg r hr).trans (h.reg r hr), k.flags.trans h.flags, k.env⟩

theorem CalmBut.mono {rs rs' : List Reg} {s t : State} (h : CalmBut rs s t) (hsub : rs ⊆ rs') :
    CalmBut rs' s t :=
  ⟨fun r hr => h.reg r fun hmem => hr (hsub hmem), h.flags, h.env⟩

theorem CalmBut.setReg {rs : List Reg} {s t : State} (h : CalmBut rs s t) {r : Reg} (hr : r ∈ rs)
    (v : Word) : CalmBut rs s (t.setReg r v) :=
  ⟨fun q hq => (reg_setReg_other t v (ne_of_mem_of_not_mem hr hq).symm).trans (h.reg q hq), h.flags, h.env⟩

section
variable {s t : State}

theorem loadMany_calm (hs : s.env = []) {rs : List Reg} {a : Word} (h : loadMany rs a s = .ok t) :
    CalmBut rs s t := by
  induction rs generalizing a s with
  | nil => cases h; exact (Calm.refl hs).but _
  | cons r rs ih =>
    obtain ⟨y, hy, h⟩ := bind_eq_ok h
    have hread := ((memRead_calm hs hy).but (r :: rs)).setReg List.mem_cons_self y.1
    exact hread.trans ((ih hread.env h).mono (List.subset_cons_self r rs))

theorem popPc_calm (hs : s.env = []) {b : Bool} {a : Word} (h : popPc b a s = .ok t) :
    CalmBut (if b then [pc] else []) s t := by
  cases b with
  | false => cases h; exact (Calm.refl hs).but _
  | true =>
    obtain ⟨y, hy, rfl⟩ := map_eq_ok h
    exact ((memRead_calm hs hy).but [pc]).setReg (List.mem_singleton_self pc) _

theorem execPop_calm (hs : s.env = []) {rlist : BitVec 8} {b : Bool}
    (h : execPop rlist b s = .next t) : CalmBut (writes (.pop rlist b)) s t := by
  obtain ⟨u, hu, h⟩ := bind_eq_ok (answer_eq_next h)
  obtain ⟨v, hv, rfl⟩ := map_eq_ok h
  have hloads : CalmBut (writes (.pop rlist b)) s u :=
    (loadMany_calm hs hu).mono fun r hr => by simp [writes, hr]
  have hpc : CalmBut (writes (.pop rlist b)) u v :=
    (popPc_calm hloads.env hv).mono fun r hr => by simp only [writes]; simp [hr]
  exact (hloads.trans hpc).setReg (by simp [writes]) _

theorem execLdmia_calm (hs : s.env = []) {rn : Reg} {rlist : BitVec 8}
    (h : execLdmia rn rlist s = .next t) : CalmBut (writes (.ldmia rn rlist)) s t := by
  obtain ⟨u, hu, rfl⟩ := map_eq_ok (answer_eq_next h)
  have hloads : CalmBut (writes (.ldmia rn rlist)) s u :=
    (loadMany_calm hs hu).mono (List.subset_cons_self rn _)
  split
  · exact hloads
  · exact hloads.setReg List.mem_cons_self _

/-- Where no handler call is listed, an instruction changes only the registers it names and only the flags
of its class. -/
theorem exec_frame {i : Instr} (hs : s.env = []) (h : exec i s = .next t) :
    (∀ r, r ∉ writes i → t.reg r = s.reg r) ∧ FlagsKept (flagClass i) s.flags t.flags := by
  have calm {rs : List Reg} (hnone : flagClass i = .none) (hrs : rs ⊆ writes i) (hcalm : CalmBut rs s t) :
      (∀ r, r ∉ writes i → t.reg r = s.reg r) ∧ FlagsKept (flagClass i) s.flags t.flags :=
    ⟨(hcalm.mono hrs).reg, by rw [hcalm.flags]; exact .refl _ _⟩
  cases exec_does i with
  | internal hi =>
    rw [hi.runs] at h
    cases h
    exact ⟨hi.regs s, hi.flags s⟩
  | load runs _ named hnone =>
    rw [runs] at h
    obtain ⟨y, hy, rfl⟩ := map_eq_ok (answer_eq_next h)
    exact calm hnone (List.Subset.refl _) (((memRead_calm hs hy).but _).setReg named _)
  | store runs _ hnone =>
    rw [runs] at h
    exact calm hnone (List.nil_subset _) ((memWrite_calm hs (answer_eq_next h)).but [])
  | push rlist b =>
    obtain ⟨u, hu, rfl⟩ := map_eq_ok (answer_eq_next h)
    exact calm rfl (List.Subset.refl _)
      (((storeMany_calm hs hu).but [sp]).setReg (List.mem_singleton_self sp) _)
  | pop rlist b => exact calm rfl (List.Subset.refl _) (execPop_calm hs h)
  | stmia rn rlist =>
    obtain ⟨u, hu, rfl⟩ := map_eq_ok (answer_eq_next h)
    exact calm rfl (List.Subset.refl _)
      (((storeMany_calm hs hu).but [rn]).setReg (List.mem_singleton_self rn) _)
  | ldmia rn rlist => exact calm rfl (List.Subset.refl _) (execLdmia_calm hs h)

end

/-- Settles O46: the registers of the frame. -/
theorem onlyNamedRegistersChange : Obligations.OnlyNamedRegistersChange :=
  fun _ _ _ hs h => (exec_frame hs h).1

/-- Settles O47: the flags of the frame. -/
theorem onlyNamedFlagsChange : Obligations.OnlyNamedFlagsChange := by
  intro i s t hs h
  have hkept := (exec_frame hs h).2
  exact ⟨hkept.v, hkept.c, hkept.all⟩

end Sys2Proof.Proofs
end

section
/-! # 40_step_engine.md R149, 70_reset_and_hazards.md R437: where no handler of the environment and no
trigger is registered every access, every instruction and every step ends -/

namespace Sys2Proof.Proofs

open Sys2Proof Sys2Proof.Machine Sys2Proof.Claims Sys2Proof.Laws

/-- The registry holds no handler of the environment and no transfer trigger. -/
structure Quiet (s : State) : Prop where
  reads : ∀ c ∈ s.readHandlers, c.2 ≠ .env
  writes : ∀ c ∈ s.writeHandlers, c.2 ≠ .env ∧ c.2 ≠ .dmaTrigger

theorem Quiet.moves {s t : State} (hs : Quiet s) (h : Moves s t) : Quiet t :=
  ⟨h.untouched.readHandlers ▸ hs.reads, h.untouched.writeHandlers ▸ hs.writes⟩

theorem Quiet.setReg {s : State} (hs : Quiet s) (r : Reg) (v : Word) : Quiet (s.setReg r v) :=
  hs.moves (.single (.setReg s r v))

/-- What a map holds at an address is one of its entries. -/
theorem mem_of_lookupKey {α : Type} {m : List (Nat × α)} {a : Nat} {v : α}
    (h : lookupKey m a = some v) : (a, v) ∈ m := by
  induction m with
  | nil => cases h
  | cons c cs ih =>
    unfold lookupKey at h
    split at h
    · rename_i hkey
      cases h
      exact hkey ▸ List.mem_cons_self
    · exact List.mem_cons_of_mem c (ih h)

section
variable {s : State}

/-- A read ends, and at most reports itself; beyond the modelled regions it gives 0. -/
theorem Quiet.memRead (hs : Quiet s) (a : Word) (w : Width) :
    ∃ v t, memRead a w s = .ok (v, t) ∧ Quiet t ∧ (∀ r, t.reg r = s.reg r) ∧
      (mmioLimit ≤ a.toNat → v = 0) := by
  by_cases hr : region a = .mmio
  · have hbelow : ¬ mmioLimit ≤ a.toNat := not_le.mpr (region_eq_mmio.mp hr).2
    rw [memRead_mmio w s hr]
    cases hstub : lookupKey s.cfg.statusStubs a.toNat with
    | some v => exact ⟨_, s, by rw [mmioRead_stub _ hstub]; rfl, hs, fun _ => rfl, fun h => absurd h hbelow⟩
    | none =>
      cases hheld : lookupKey s.readHandlers a.toNat with
      | none =>
        exact ⟨_, s.emit _, by rw [mmioRead_unmapped _ hstub hheld]; rfl, ⟨hs.reads, hs.writes⟩,
          fun _ => rfl, fun h => absurd h hbelow⟩
      | some hd =>
        cases hd with
        | dmaStatus =>
          exact ⟨_, s, by rw [mmioRead_dmaStatus _ hstub hheld]; rfl, hs, fun _ => rfl,
            fun h => absurd h hbelow⟩
        | env => exact absurd rfl (hs.reads _ (mem_of_lookupKey hheld))
  · refine ⟨_, s, memRead_plain w s hr, hs, fun _ => rfl, fun h => ?_⟩
    simp [plainRead, region_eq_unmodelled.mpr h]

theorem Quiet.memWrite (hs : Quiet s) (a : Word) (w : Width) (v : Word) :
    ∃ t, memWrite a w v s = .ok t ∧ Quiet t := by
  suffices h : ∃ t, Machine.memWrite a w v s = .ok t from
    h.imp fun t ht => ⟨ht, hs.moves (memWrite_moves ht)⟩
  cases hr : region a with
  | rom => exact ⟨_, memWrite_rom w v s hr⟩
  | ram => exact ⟨_, memWrite_ram w v s hr⟩
  | unmodelled => exact ⟨_, memWrite_unmodelled w v s hr⟩
  | mmio =>
    rw [memWrite_mmio w v s hr]
    rcases hheld : lookupKey s.writeHandlers a.toNat with _ | _ | _ | _ | _
    · exact ⟨_, mmioWrite_unmapped _ _ hheld⟩
    · exact ⟨_, mmioWrite_chid _ _ hheld⟩
    · exact ⟨_, mmioWrite_base _ _ hheld⟩
    · exact absurd rfl (hs.writes _ (mem_of_lookupKey hheld)).2
    · exact absurd rfl (hs.writes _ (mem_of_lookupKey hheld)).1

/-! ### Every instruction -/

theorem Quiet.storeMany (hs : Quiet s) (rs : List Reg) (a : Word) : ∃ t, storeMany rs a s = .ok t := by
  induction rs generalizing a s with
  | nil => exact ⟨s, rfl⟩
  | cons r rs ih =>
    obtain ⟨u, hu, hquiet⟩ := hs.memWrite a .word (s.reg r)
    unfold Machine.storeMany
    rw [hu]
    exact ih hquiet _

theorem Quiet.loadMany (hs : Quiet s) (rs : List Reg) (a : Word) : ∃ t, loadMany rs a s = .ok t := by
  induction rs generalizing a s with
  | nil => exact ⟨s, rfl⟩
  | cons r rs ih =>
    obtain ⟨v, u, hu, hquiet, -⟩ := hs.memRead a .word
    unfold Machine.loadMany
    rw [hu]
    exact ih (hquiet.setReg r v) _

theorem Quiet.popPc (hs : Quiet s) (b : Bool) (a : Word) : ∃ t, popPc b a s = .ok t := by
  cases b with
  | false => exact ⟨s, rfl⟩
  | true =>
    obtain ⟨v, u, hu, -⟩ := hs.memRead a .word
    exact ⟨branch v u, by simp [Machine.popPc, hu, Except.map]⟩

/-- What is made of a computation that ends, ends. -/
theorem answer_map_next {x : Except Fault State} (h : ∃ u, x = .ok u) (f : State → State) :
    ∃ t, answer (x.map f) = .next t := by
  obtain ⟨u, rfl⟩ := h
  exact ⟨f u, rfl⟩

theorem Quiet.exec (hs : Quiet s) (i : Instr) : ∃ t, exec i s = .next t := by
  cases exec_does i with
  | internal hi => exact ⟨_, hi.runs s⟩
  | load runs =>
    obtain ⟨v, u, hu, -⟩ := hs.memRead _ _
    exact ⟨_, by rw [runs, loadInto, hu]; rfl⟩
  | store runs =>
    obtain ⟨u, hu, -⟩ := hs.memWrite _ _ _
    exact ⟨_, by rw [runs, storeFrom, hu]; rfl⟩
  | push rlist b => exact answer_map_next (hs.storeMany _ _) _
  | pop rlist b =>
    obtain ⟨u, hu⟩ := hs.loadMany (listedRegs rlist) (s.reg sp)
    obtain ⟨v, hv⟩ := (hs.moves (loadMany_moves hu)).popPc b
      (s.reg sp + listBytes (listedRegs rlist).length)
    show ∃ t, execPop rlist b s = .next t
    simp only [execPop, hu, Except.bind, hv]
    exact ⟨_, rfl⟩
  | stmia rn rlist => exact answer_map_next (hs.storeMany _ _) _
  | ldmia rn rlist => exact answer_map_next (hs.loadMany _ _) _

/-! ### Entry and exit -/

theorem Quiet.pushWord (hs : Quiet s) (v : Word) : ∃ t, pushWord v s = .ok t ∧ Quiet t :=
  (hs.setReg sp _).memWrite _ .word v

theorem Quiet.pushRegs (hs : Quiet s) (rs : List Reg) : ∃ t, pushRegs rs s = .ok t := by
  induction rs generalizing s with
  | nil => exact ⟨s, rfl⟩
  | cons r rs ih =>
    obtain ⟨u, hu, hquiet⟩ := hs.pushWord (s.reg r)
    unfold Machine.pushRegs
    rw [hu]
    exact ih hquiet

theorem Quiet.exceptionEntry (hs : Quiet s) (vector : Word) : ∃ t, exceptionEntry vector s = .ok t := by
  obtain ⟨u, hu, hquiet⟩ := hs.pushWord (psrImage s.flags)
  obtain ⟨v, hv⟩ := hquiet.pushRegs [pc, lr, 12, 3, 2, 1, 0]
  simp only [Machine.exceptionEntry, hu, Except.bind, hv, Except.map]
  exact ⟨_, rfl⟩

/-- A pop ends, and moves the stack pointer alone. -/
theorem Quiet.popWord (hs : Quiet s) :
    ∃ v t, popWord s = .ok (v, t) ∧ Quiet t ∧ t.reg sp = s.reg sp + 4 ∧
      (mmioLimit ≤ (s.reg sp).toNat → v = 0) := by
  obtain ⟨v, t, hread, hquiet, hregs, hzero⟩ := hs.memRead (s.reg sp) .word
  refine ⟨v, t.setReg sp (t.reg sp + 4), ?_, hquiet.setReg _ _, ?_, hzero⟩
  · simp only [Machine.popWord, hread, Except.map]
  · rw [reg_setReg_same, hregs]

theorem Quiet.popRegs (hs : Quiet s) {rs : List Reg} (hsp : sp ∉ rs) :
    ∃ t, popRegs rs s = .ok t ∧ Quiet t ∧ t.reg sp = s.reg sp + BitVec.ofNat 32 (4 * rs.length) := by
  induction rs generalizing s with
  | nil => exact ⟨s, rfl, hs, by simp⟩
  | cons r rs ih =>
    obtain ⟨hr, hrs⟩ := not_or.mp (List.mem_cons.not.mp hsp)
    obtain ⟨v, u, hu, hquiet, hmoved, -⟩ := hs.popWord
    obtain ⟨t, ht, htquiet, htmoved⟩ := ih (hquiet.setReg r v) hrs
    refine ⟨t, ?_, htquiet, ?_⟩
    · unfold Machine.popRegs
      rw [hu]
      exact ht
    · rw [htmoved, reg_setReg_other u v hr, hmoved, BitVec.add_assoc, List.length_cons, Nat.mul_succ,
        Nat.add_comm, BitVec.ofNat_add]
      rfl

/-- An exit ends and raises the stack pointer by the size of the frame; where the program counter is
popped from beyond the modelled regions it is 0. -/
theorem Quiet.exceptionExit (hs : Quiet s) :
    ∃ t, exceptionExit s = .ok t ∧ Quiet t ∧ t.reg sp = s.reg sp + 32 ∧
      (mmioLimit ≤ (s.reg sp + 24).toNat → t.reg pc = 0) := by
  obtain ⟨s1, h1, hquiet1, hsp1⟩ := hs.popRegs (rs := [0, 1, 2, 3, 12, lr]) (by decide)
  obtain ⟨target, s2, h2, hquiet2, hsp2, hzero⟩ := hquiet1.popWord
  obtain ⟨psr, s3, h3, hquiet3, hsp3, -⟩ := (hquiet2.setReg pc (target &&& 0xFFFFFFFE)).popWord
  have hpc : s3.reg pc = target &&& 0xFFFFFFFE := by
    obtain ⟨y, hy, hs3⟩ := map_eq_ok h3
    obtain ⟨v, t, hread, -, hregs, -⟩ := (hquiet2.setReg pc (target &&& 0xFFFFFFFE)).memRead
      ((s2.setReg pc (target &&& 0xFFFFFFFE)).reg sp) .word
    cases hy.symm.trans hread
    cases hs3
    rw [reg_setReg_other _ _ (by decide), hregs, reg_setReg_same]
  refine ⟨{ s3.setFlags (flagsOfPsr psr) with excActive := false }, ?_, ⟨hquiet3.reads, hquiet3.writes⟩,
    ?_, fun hbeyond => ?_⟩
  · simp only [Machine.exceptionExit, h1, h2, h3, Except.bind, Except.map]
  · show s3.reg sp = _
    rw [hsp3, reg_setReg_other _ _ (by decide), hsp2, hsp1]
    simp only [BitVec.add_assoc]
    rfl
  · show s3.reg pc = 0
    rw [hpc, hzero (by rw [hsp1]; exact hbeyond)]
    rfl

/-- The loop ends if one of the exits it may make, the `d`-th from now, pops its program counter from
beyond the modelled regions. -/
theorem Quiet.exitLoop_of_beyond {n d : Nat} (hs : Quiet s) (hd : d < n)
    (hbeyond : mmioLimit ≤ (s.reg sp + 24 + BitVec.ofNat 32 (32 * d)).toNat) :
    ∃ t, exitLoop n s = .ok t ∧ Quiet t := by
  induction n generalizing s d with
  | zero => exact absurd hd (Nat.not_lt_zero d)
  | succ n ih =>
    by_cases hsent : instrAddr s = sentinel
    · obtain ⟨u, hexit, hquiet, hsp, hzero⟩ := hs.exceptionExit
      rw [exitLoop_at_sentinel n hsent, hexit]
      have hquiet' : Quiet (u.emit .exited) := ⟨hquiet.reads, hquiet.writes⟩
      cases d with
      | zero =>
        have hpc : u.reg pc = 0 := hzero (by simpa using hbeyond)
        have haway : instrAddr (u.emit .exited) ≠ sentinel := by
          rw [instrAddr, reg_emit, hpc]
          decide
        exact ⟨_, exitLoop_elsewhere n haway, hquiet'⟩
      | succ d =>
        refine ih hquiet' (Nat.lt_of_succ_lt_succ hd) ?_
        have hshift : (u.emit .exited).reg sp + 24 + BitVec.ofNat 32 (32 * d) =
            s.reg sp + 24 + BitVec.ofNat 32 (32 * (d + 1)) := by
          rw [reg_emit, hsp, Nat.mul_succ, BitVec.ofNat_add]
          show _ = s.reg sp + 24 + (BitVec.ofNat 32 (32 * d) + 32)
          ac_rfl
        rwa [hshift]
    · exact ⟨s, exitLoop_elsewhere _ hsent, hs⟩

/-- Whatever the stack pointer, fewer than 2^27 frames on the address is beyond the modelled regions. -/
theorem exists_frame_beyond (p : Word) :
    ∃ d < exitFuel, mmioLimit ≤ (p + BitVec.ofNat 32 (32 * d)).toNat := by
  by_cases hp : mmioLimit ≤ p.toNat
  · exact ⟨0, by decide, by simpa using hp⟩
  · refine ⟨(mmioLimit - p.toNat) / 32 + 1, ?_, ?_⟩ <;>
      simp only [mmioLimit, exitFuel, BitVec.toNat_add, BitVec.toNat_ofNat] at hp ⊢ <;> omega

theorem Quiet.exitLoop (hs : Quiet s) : ∃ t, exitLoop exitFuel s = .ok t ∧ Quiet t := by
  obtain ⟨d, hd, hbeyond⟩ := exists_frame_beyond (s.reg sp + 24)
  exact hs.exitLoop_of_beyond hd hbeyond

theorem Quiet.step (hs : Quiet s) : ∃ t, step s = .next t := by
  show ∃ t, engineStep s = .next t
  unfold engineStep
  cases pendingSource s with
  | some src =>
    cases src with
    | dma =>
      exact answer_map_next (Quiet.exceptionEntry (s := { s with dmaPending := false })
        ⟨hs.reads, hs.writes⟩ s.vecDma) _
    | tick =>
      exact answer_map_next (Quiet.exceptionEntry (s := { s with tickPending := false })
        ⟨hs.reads, hs.writes⟩ s.vecTick) _
  | none =>
    obtain ⟨t, ht, hquiet⟩ := hs.exitLoop
    simp only [ht, executeAt]
    cases fetch t (instrAddr t) with
    | none => exact ⟨_, rfl⟩
    | some i =>
      obtain ⟨u, hu⟩ := Quiet.exec (s := advance t) (hquiet.setReg pc _) i
      exact ⟨retire (.executed i) u, by simp only [hu, retireResult]⟩

end

/-- Settles O49: without handlers and triggers nothing nests, and the exits of one step come to an end
because the stack pointer passes over the whole address space. -/
theorem stepEndsWithoutHandlers : Obligations.StepEndsWithoutHandlers := by
  intro s hreads hwrites
  have hs : Quiet s := ⟨hreads, hwrites⟩
  exact ⟨hs.exec, hs.step⟩

end Sys2Proof.Proofs
end

section
/-! # 30_encoding.md: the round trip from instructions to bytes and back -/

namespace Sys2Proof.Proofs

open Sys2Proof Sys2Proof.Machine Sys2Proof.Claims Sys2Proof.Laws

/-- The round trip of every instruction, from its own. -/
theorem encodingRoundTrip (i : Instr) : EncodingRoundTrip.Statement i := by
  cases i with
  | lslImm rd rm imm5 => exact EncodingRoundTrip.lslImm _ _ _
  | lsrImm rd rm imm5 => exact EncodingRoundTrip.lsrImm _ _ _
  | asrImm rd rm imm5 => exact EncodingRoundTrip.asrImm _ _ _
  | addReg rd rn rm => exact EncodingRoundTrip.addReg _ _ _
  | subReg rd rn rm => exact EncodingRoundTrip.subReg _ _ _
  | addImm3 rd rn imm3 => exact EncodingRoundTrip.addImm3 _ _ _
  | subImm3 rd rn imm3 => exact EncodingRoundTrip.subImm3 _ _ _
  | movImm8 rd imm8 => exact EncodingRoundTrip.movImm8 _ _
  | cmpImm8 rn imm8 => exact EncodingRoundTrip.cmpImm8 _ _
  | addImm8 rdn imm8 => exact EncodingRoundTrip.addImm8 _ _
  | subImm8 rdn imm8 => exact EncodingRoundTrip.subImm8 _ _
  | andReg rdn rm => exact EncodingRoundTrip.andReg _ _
  | eorReg rdn rm => exact EncodingRoundTrip.eorReg _ _
  | lslReg rdn rs => exact EncodingRoundTrip.lslReg _ _
  | lsrReg rdn rs => exact EncodingRoundTrip.lsrReg _ _
  | asrReg rdn rs => exact EncodingRoundTrip.asrReg _ _
  | adcReg rdn rm => exact EncodingRoundTrip.adcReg _ _
  | sbcReg rdn rm => exact EncodingRoundTrip.sbcReg _ _
  | rorReg rdn rs => exact EncodingRoundTrip.rorReg _ _
  | tstReg rn rm => exact EncodingRoundTrip.tstReg _ _
  | negReg rd rm => exact EncodingRoundTrip.negReg _ _
  | cmpReg rn rm => exact EncodingRoundTrip.cmpReg _ _
  | cmnReg rn rm => exact EncodingRoundTrip.cmnReg _ _
  | orrReg rdn rm => exact EncodingRoundTrip.orrReg _ _
  | mulReg rdn rm => exact EncodingRoundTrip.mulReg _ _
  | bicReg rdn rm => exact EncodingRoundTrip.bicReg _ _
  | mvnReg rd rm => exact EncodingRoundTrip.mvnReg _ _
  | addHi rd rm => exact EncodingRoundTrip.addHi _ _
  | cmpHi rn rm => exact EncodingRoundTrip.cmpHi _ _
  | movHi rd rm => exact EncodingRoundTrip.movHi _ _
  | bx rm => exact EncodingRoundTrip.bx _
  | blxReg rm => exact EncodingRoundTrip.blxReg _
  | ldrLit rt imm8 => exact EncodingRoundTrip.ldrLit _ _
  | strReg rt rn rm => exact EncodingRoundTrip.strReg _ _ _
  | strhReg rt rn rm => exact EncodingRoundTrip.strhReg _ _ _
  | strbReg rt rn rm => exact EncodingRoundTrip.strbReg _ _ _
  | ldrsbReg rt rn rm => exact EncodingRoundTrip.ldrsbReg _ _ _
  | ldrReg rt rn rm => exact EncodingRoundTrip.ldrReg _ _ _
  | ldrhReg rt rn rm => exact EncodingRoundTrip.ldrhReg _ _ _
  | ldrbReg rt rn rm => exact EncodingRoundTrip.ldrbReg _ _ _
  | ldrshReg rt rn rm => exact EncodingRoundTrip.ldrshReg _ _ _
  | strImm5 rt rn imm5 => exact EncodingRoundTrip.strImm5 _ _ _
  | ldrImm5 rt rn imm5 => exact EncodingRoundTrip.ldrImm5 _ _ _
  | strbImm5 rt rn imm5 => exact EncodingRoundTrip.strbImm5 _ _ _
  | ldrbImm5 rt rn imm5 => exact EncodingRoundTrip.ldrbImm5 _ _ _
  | strhImm5 rt rn imm5 => exact EncodingRoundTrip.strhImm5 _ _ _
  | ldrhImm5 rt rn imm5 => exact EncodingRoundTrip.ldrhImm5 _ _ _
  | strSp rt imm8 => exact EncodingRoundTrip.strSp _ _
  | ldrSp rt imm8 => exact EncodingRoundTrip.ldrSp _ _
  | adr rd imm8 => exact EncodingRoundTrip.adr _ _
  | addRdSp rd imm8 => exact EncodingRoundTrip.addRdSp _ _
  | addSpImm7 imm7 => exact EncodingRoundTrip.addSpImm7 _
  | subSpImm7 imm7 => exact EncodingRoundTrip.subSpImm7 _
  | sxth rd rm => exact EncodingRoundTrip.sxth _ _
  | sxtb rd rm => exact EncodingRoundTrip.sxtb _ _
  | uxth rd rm => exact EncodingRoundTrip.uxth _ _
  | uxtb rd rm => exact EncodingRoundTrip.uxtb _ _
  | rev rd rm => exact EncodingRoundTrip.rev _ _
  | rev16 rd rm => exact EncodingRoundTrip.rev16 _ _
  | revsh rd rm => exact EncodingRoundTrip.revsh _ _
  | push rlist lrBit => exact EncodingRoundTrip.push _ _
  | pop rlist pcBit => exact EncodingRoundTrip.pop _ _
  | stmia rn rlist => exact EncodingRoundTrip.stmia _ _
  | ldmia rn rlist => exact EncodingRoundTrip.ldmia _ _
  | beq imm8 => exact EncodingRoundTrip.beq _
  | bne imm8 => exact EncodingRoundTrip.bne _
  | bcs imm8 => exact EncodingRoundTrip.bcs _
  | bcc imm8 => exact EncodingRoundTrip.bcc _
  | bmi imm8 => exact EncodingRoundTrip.bmi _
  | bpl imm8 => exact EncodingRoundTrip.bpl _
  | bvs imm8 => exact EncodingRoundTrip.bvs _
  | bvc imm8 => exact EncodingRoundTrip.bvc _
  | bhi imm8 => exact EncodingRoundTrip.bhi _
  | bls imm8 => exact EncodingRoundTrip.bls _
  | bge imm8 => exact EncodingRoundTrip.bge _
  | blt imm8 => exact EncodingRoundTrip.blt _
  | bgt imm8 => exact EncodingRoundTrip.bgt _
  | ble imm8 => exact EncodingRoundTrip.ble _
  | svc imm8 => exact EncodingRoundTrip.svc _
  | b imm11 => exact EncodingRoundTrip.b _
  | blPrefix imm11 => exact EncodingRoundTrip.blPrefix _
  | blSuffix imm11 => exact EncodingRoundTrip.blSuffix _
  | mrs rd sysm => exact EncodingRoundTrip.mrs _ _
  | msr rn sysm => exact EncodingRoundTrip.msr _ _
  | dsb option => exact EncodingRoundTrip.dsb _
  | dmb option => exact EncodingRoundTrip.dmb _
  | isb option => exact EncodingRoundTrip.isb _

/-- A halfword is its two bytes, the low one first (R61). -/
theorem halfOfBytes_extract (hw : Half) :
    halfOfBytes (hw.extractLsb' 0 8) (hw.extractLsb' 8 8) = hw := by
  have hlt := hw.isLt
  apply BitVec.eq_of_toNat_eq
  simp only [halfOfBytes, toNat_append_eq_add, BitVec.extractLsb'_toNat, Nat.shiftRight_eq_div_pow]
  omega

/-- The bytes of halfwords in memory order. -/
def bytesOfHalves (hws : List Half) : List Byte :=
  hws.flatMap fun hw => [hw.extractLsb' 0 8, hw.extractLsb' 8 8]

theorem decodeBytes_halves (hw : Half) (hws : List Half) (rest : List Byte) :
    decodeBytes (bytesOfHalves (hw :: hws) ++ rest) = decode hw (hws.headD (peekHalf rest)) := by
  show decode (halfOfBytes _ _) (peekHalf (bytesOfHalves hws ++ rest)) = _
  rw [halfOfBytes_extract]
  cases hws with
  | nil => rfl
  | cons hw2 hws =>
    show decode hw (halfOfBytes _ _) = decode hw hw2
    rw [halfOfBytes_extract]

/-- Settles O51: the bytes are cut into the halfwords of the round trip. -/
theorem decodeInvertsEncode : Obligations.DecodeInvertsEncode := by
  intro i rest hwf hadmits
  obtain ⟨hw, hws, hencode, hdecode⟩ := encodingRoundTrip i hwf (peekHalf rest) hadmits
  rw [hencode]
  exact (decodeBytes_halves hw hws rest).trans hdecode

/-! ### Back from the decoder -/

theorem highMask_toNat {x m p : Half} (j : Nat) (hj : j ≤ 16) (hm : m = BitVec.ofNat 16 (2 ^ 16 - 2 ^ j))
    (h : (x &&& m == p) = true) : x.toNat / 2 ^ j * 2 ^ j = p.toNat := by
  rw [← and_highMask x j hj, ← hm, beq_iff_eq.mp h]

/-- A 3-bit field names a low register. -/
theorem isLow_lowField (x : Half) (lo : Nat) : isLow (lowField x lo) = true :=
  decide_eq_true (Nat.mod_lt _ (by decide))

theorem wellFormed_of_fields {i : Instr} (x : Half) (places : List Nat)
    (operands : lowOperands i = places.map (lowField x)) : wellFormed i = true := by
  simp [wellFormed, operands, isLow_lowField]

/-- The halfwords that encoding gives back: the ignored bits of BX and BLX are written 0, and the second
halfword belongs to the five system instructions only. -/
def halvesBack (i : Instr) (hw next : Half) : List Half :=
  match i with
  | .bx _ | .blxReg _ => [hw &&& 0xFFF8#16]
  | .mrs _ _ | .msr _ _ | .dsb _ | .dmb _ | .isb _ => [hw, next]
  | _ => [hw]

/-- What the row decodes is well-formed and encodes to the halfwords it came from. -/
def RowInverts (r : Row) : Prop :=
  ∀ hw next, rowHits r hw next = true →
    wellFormed (r.build hw next) = true ∧
      encode (r.build hw next) = halvesBack (r.build hw next) hw next

theorem rowHits_first {m p x next : Half} {n : Option (Half × Half)} {f : Half → Half → Instr}
    (h : rowHits ⟨m, p, n, f⟩ x next = true) : (x &&& m == p) = true :=
  (Bool.and_eq_true_iff.mp h).1

theorem rowHits_second {m p m' p' x next : Half} {f : Half → Half → Instr}
    (h : rowHits ⟨m, p, some (m', p'), f⟩ x next = true) : (next &&& m' == p') = true :=
  (Bool.and_eq_true_iff.mp h).2

/-- Two low registers and a 5-bit immediate (R103, R110, R111). -/
theorem inverts_regs2_imm5 {p : Half} {f : Reg → Reg → BitVec 5 → Instr}
    (operands : ∀ a b c, lowOperands (f a b c) = [a, b])
    (encoded : ∀ a b c, encode (f a b c) = [asHalf (p.toNat + putReg a 0 + putReg b 3 + putImm c 6)])
    (back : ∀ a b c hw next, halvesBack (f a b c) hw next = [hw]) :
    RowInverts ⟨0xF800, p, none, fun hw _ => f (lowField hw 0) (lowField hw 3) (hw.extractLsb' 6 5)⟩ := by
  intro hw next h
  have htop := highMask_toNat 11 (by decide) rfl (rowHits_first h)
  refine ⟨wellFormed_of_fields hw [0, 3] (operands _ _ _), ?_⟩
  rw [encoded, back, asHalf]
  congr 1
  apply BitVec.eq_of_toNat_eq
  have hlt := hw.isLt
  simp only [putReg, putImm, lowField, BitVec.toNat_ofNat, BitVec.extractLsb'_toNat,
    Nat.shiftRight_eq_div_pow]
  omega

/-- Three low registers (R104, R109). -/
theorem inverts_regs3 {p : Half} {f : Reg → Reg → Reg → Instr}
    (operands : ∀ a b c, lowOperands (f a b c) = [a, b, c])
    (encoded : ∀ a b c, encode (f a b c) = [asHalf (p.toNat + putReg a 0 + putReg b 3 + putReg c 6)])
    (back : ∀ a b c hw next, halvesBack (f a b c) hw next = [hw]) :
    RowInverts ⟨0xFE00, p, none, fun hw _ => f (lowField hw 0) (lowField hw 3) (lowField hw 6)⟩ := by
  intro hw next h
  have htop := highMask_toNat 9 (by decide) rfl (rowHits_first h)
  refine ⟨wellFormed_of_fields hw [0, 3, 6] (operands _ _ _), ?_⟩
  rw [encoded, back, asHalf]
  congr 1
  apply BitVec.eq_of_toNat_eq
  have hlt := hw.isLt
  simp only [putReg, lowField, BitVec.toNat_ofNat]
  omega

/-- Two low registers and a 3-bit immediate (R104). -/
theorem inverts_regs2_imm3 {p : Half} {f : Reg → Reg → BitVec 3 → Instr}
    (operands : ∀ a b c, lowOperands (f a b c) = [a, b])
    (encoded : ∀ a b c, encode (f a b c) = [asHalf (p.toNat + putReg a 0 + putReg b 3 + putImm c 6)])
    (back : ∀ a b c hw next, halvesBack (f a b c) hw next = [hw]) :
    RowInverts ⟨0xFE00, p, none, fun hw _ => f (lowField hw 0) (lowField hw 3) (hw.extractLsb' 6 3)⟩ := by
  intro hw next h
  have htop := highMask_toNat 9 (by decide) rfl (rowHits_first h)
  refine ⟨wellFormed_of_fields hw [0, 3] (operands _ _ _), ?_⟩
  rw [encoded, back, asHalf]
  congr 1
  apply BitVec.eq_of_toNat_eq
  have hlt := hw.isLt
  simp only [putReg, putImm, lowField, BitVec.toNat_ofNat, BitVec.extractLsb'_toNat,
    Nat.shiftRight_eq_div_pow]
  omega

/-- One low register above an 8-bit immediate or list (R105, R108, R112, R113, R118). -/
theorem inverts_reg_imm8 {p : Half} {f : Reg → BitVec 8 → Instr}
    (operands : ∀ a b, lowOperands (f a b) = [a])
    (encoded : ∀ a b, encode (f a b) = [asHalf (p.toNat + putReg a 8 + putImm b 0)])
    (back : ∀ a b hw next, halvesBack (f a b) hw next = [hw]) :
    RowInverts ⟨0xF800, p, none, fun hw _ => f (lowField hw 8) (hw.extractLsb' 0 8)⟩ := by
  intro hw next h
  have htop := highMask_toNat 11 (by decide) rfl (rowHits_first h)
  refine ⟨wellFormed_of_fields hw [8] (operands _ _), ?_⟩
  rw [encoded, back, asHalf]
  congr 1
  apply BitVec.eq_of_toNat_eq
  have hlt := hw.isLt
  simp only [putReg, putImm, lowField, BitVec.toNat_ofNat, BitVec.extractLsb'_toNat,
    Nat.shiftRight_eq_div_pow]
  omega

/-- Two low registers (R106, R115, R116). -/
theorem inverts_regs2 {p : Half} {f : Reg → Reg → Instr}
    (operands : ∀ a b, lowOperands (f a b) = [a, b])
    (encoded : ∀ a b, encode (f a b) = [asHalf (p.toNat + putReg a 0 + putReg b 3)])
    (back : ∀ a b hw next, halvesBack (f a b) hw next = [hw]) :
    RowInverts ⟨0xFFC0, p, none, fun hw _ => f (lowField hw 0) (lowField hw 3)⟩ := by
  intro hw next h
  have htop := highMask_toNat 6 (by decide) rfl (rowHits_first h)
  refine ⟨wellFormed_of_fields hw [0, 3] (operands _ _), ?_⟩
  rw [encoded, back, asHalf]
  congr 1
  apply BitVec.eq_of_toNat_eq
  have hlt := hw.isLt
  simp only [putReg, lowField, BitVec.toNat_ofNat]
  omega

/-- Any two registers, the first in the split field (R107). -/
theorem inverts_split_reg {p : Half} {f : Reg → Reg → Instr} (operands : ∀ a b, lowOperands (f a b) = [])
    (encoded : ∀ a b, encode (f a b) = [asHalf (p.toNat + putSplit a + putReg b 3)])
    (back : ∀ a b hw next, halvesBack (f a b) hw next = [hw]) :
    RowInverts ⟨0xFF00, p, none, fun hw _ => f (splitField hw) (regField hw 3)⟩ := by
  intro hw next h
  have htop := highMask_toNat 8 (by decide) rfl (rowHits_first h)
  refine ⟨wellFormed_of_fields hw [] (operands _ _), ?_⟩
  rw [encoded, back, asHalf]
  congr 1
  apply BitVec.eq_of_toNat_eq
  have hlt := hw.isLt
  simp only [putReg, putSplit, splitField, regField, BitVec.toNat_ofNat]
  omega

/-- One register above three ignored bits (R107, D12). -/
theorem inverts_reg_ignored {p : Half} {f : Reg → Instr} (operands : ∀ a, lowOperands (f a) = [])
    (encoded : ∀ a, encode (f a) = [asHalf (p.toNat + putReg a 3)])
    (back : ∀ a hw next, halvesBack (f a) hw next = [hw &&& 0xFFF8#16]) :
    RowInverts ⟨0xFF80, p, none, fun hw _ => f (regField hw 3)⟩ := by
  intro hw next h
  have htop := highMask_toNat 7 (by decide) rfl (rowHits_first h)
  refine ⟨wellFormed_of_fields hw [] (operands _), ?_⟩
  rw [encoded, back, asHalf]
  congr 1
  apply BitVec.eq_of_toNat_eq
  have hlt := hw.isLt
  have hcleared : (hw &&& 0xFFF8#16).toNat = hw.toNat / 2 ^ 3 * 2 ^ 3 := and_highMask hw 3 (by decide)
  simp only [putReg, regField, BitVec.toNat_ofNat, hcleared]
  omega

/-- One immediate of `n` bits below the fixed ones (R114, R119, R120). -/
theorem inverts_imm {n : Nat} {m p : Half} {next : Option (Half × Half)} {f : BitVec n → Instr}
    (hn : n ≤ 16) (hm : m = BitVec.ofNat 16 (2 ^ 16 - 2 ^ n)) (operands : ∀ a, lowOperands (f a) = [])
    (encoded : ∀ a, encode (f a) = [asHalf (p.toNat + putImm a 0)])
    (back : ∀ a hw next, halvesBack (f a) hw next = [hw]) :
    RowInverts ⟨m, p, next, fun hw _ => f (hw.extractLsb' 0 n)⟩ := by
  intro hw hw2 h
  have htop := highMask_toNat n hn hm (rowHits_first h)
  refine ⟨wellFormed_of_fields hw [] (operands _), ?_⟩
  rw [encoded, back, asHalf]
  congr 1
  apply BitVec.eq_of_toNat_eq
  have hsplit := Nat.div_add_mod' hw.toNat (2 ^ n)
  simp only [putImm, BitVec.toNat_ofNat, BitVec.extractLsb'_toNat, Nat.shiftRight_zero, pow_zero, mul_one,
    ← htop, hsplit, Nat.mod_eq_of_lt hw.isLt]

/-- A list below one more bit (R117). -/
theorem inverts_list_bit {p : Half} {f : BitVec 8 → Bool → Instr} (operands : ∀ a b, lowOperands (f a b) = [])
    (encoded : ∀ a b, encode (f a b) = [asHalf (p.toNat + putImm a 0 + putBit b 8)])
    (back : ∀ a b hw next, halvesBack (f a b) hw next = [hw]) :
    RowInverts ⟨0xFE00, p, none, fun hw _ => f (hw.extractLsb' 0 8) (hw.getLsbD 8)⟩ := by
  intro hw next h
  have htop := highMask_toNat 9 (by decide) rfl (rowHits_first h)
  refine ⟨wellFormed_of_fields hw [] (operands _ _), ?_⟩
  rw [encoded, back, asHalf]
  congr 1
  apply BitVec.eq_of_toNat_eq
  have hlt := hw.isLt
  have hbit : (hw.getLsbD 8).toNat = hw.toNat / 2 ^ 8 % 2 := by
    rw [BitVec.getLsbD, Nat.toNat_testBit]
  simp only [putImm, putBit, BitVec.toNat_ofNat, BitVec.extractLsb'_toNat, Nat.shiftRight_eq_div_pow, hbit]
  omega

/-- A system instruction whose first halfword is fixed and whose second ends in an option (R121). -/
theorem inverts_option {p' : Half} {f : BitVec 4 → Instr} (operands : ∀ a, lowOperands (f a) = [])
    (encoded : ∀ a, encode (f a) = [asHalf 0xF3BF, asHalf (p'.toNat + putImm a 0)])
    (back : ∀ a hw next, halvesBack (f a) hw next = [hw, next]) :
    RowInverts ⟨0xFFFF, 0xF3BF, some (0xFFF0, p'), fun _ hw2 => f (hw2.extractLsb' 0 4)⟩ := by
  intro hw next h
  have hfirst := highMask_toNat 0 (by decide) rfl (rowHits_first h)
  have hsecond := highMask_toNat 4 (by decide) rfl (rowHits_second h)
  refine ⟨wellFormed_of_fields hw [] (operands _), ?_⟩
  rw [encoded, back, asHalf, asHalf]
  congr 1
  · exact BitVec.eq_of_toNat_eq (by simpa using hfirst.symm)
  · congr 1
    apply BitVec.eq_of_toNat_eq
    have hlt := next.isLt
    simp only [putImm, BitVec.toNat_ofNat, BitVec.extractLsb'_toNat, Nat.shiftRight_eq_div_pow]
    omega

/-- MRS (R121). -/
theorem inverts_mrs : RowInverts ⟨0xFFFF, 0xF3EF, some (0xF000, 0x8000),
    fun _ hw2 => .mrs (regField hw2 8) (hw2.extractLsb' 0 8)⟩ := by
  intro hw next h
  have hfirst : hw.toNat / 2 ^ 0 * 2 ^ 0 = 0xF3EF :=
    highMask_toNat 0 (by decide) rfl (rowHits_first h)
  have hsecond : next.toNat / 2 ^ 12 * 2 ^ 12 = 0x8000 :=
    highMask_toNat 12 (by decide) rfl (rowHits_second h)
  refine ⟨rfl, ?_⟩
  show [asHalf _, asHalf _] = [hw, next]
  congr 1
  · exact BitVec.eq_of_toNat_eq (by simpa [asHalf] using hfirst.symm)
  · congr 1
    apply BitVec.eq_of_toNat_eq
    have hlt := next.isLt
    simp only [asHalf, putReg, putImm, regField, BitVec.toNat_ofNat, BitVec.extractLsb'_toNat,
      Nat.shiftRight_eq_div_pow]
    omega

/-- MSR (R121). -/
theorem inverts_msr : RowInverts ⟨0xFFF0, 0xF380, some (0xFF00, 0x8800),
    fun hw hw2 => .msr (regField hw 0) (hw2.extractLsb' 0 8)⟩ := by
  intro hw next h
  have hfirst : hw.toNat / 2 ^ 4 * 2 ^ 4 = 0xF380 :=
    highMask_toNat 4 (by decide) rfl (rowHits_first h)
  have hsecond : next.toNat / 2 ^ 8 * 2 ^ 8 = 0x8800 :=
    highMask_toNat 8 (by decide) rfl (rowHits_second h)
  refine ⟨rfl, ?_⟩
  show [asHalf _, asHalf _] = [hw, next]
  have hlt := hw.isLt
  have hlt' := next.isLt
  congr 1
  · apply BitVec.eq_of_toNat_eq
    simp only [asHalf, putReg, regField, BitVec.toNat_ofNat]
    omega
  · congr 1
    apply BitVec.eq_of_toNat_eq
    simp only [asHalf, putImm, BitVec.toNat_ofNat, BitVec.extractLsb'_toNat,
      Nat.shiftRight_eq_div_pow]
    omega

theorem rowsF1toF3_invert : ∀ r ∈ rowsF1toF3, RowInverts r := by
  simp only [rowsF1toF3, List.forall_mem_cons]
  exact ⟨
    inverts_regs2_imm5 (fun _ _ _ => rfl) (fun _ _ _ => rfl) (fun _ _ _ _ _ => rfl),
    inverts_regs2_imm5 (fun _ _ _ => rfl) (fun _ _ _ => rfl) (fun _ _ _ _ _ => rfl),
    inverts_regs2_imm5 (fun _ _ _ => rfl) (fun _ _ _ => rfl) (fun _ _ _ _ _ => rfl),
    inverts_regs3 (fun _ _ _ => rfl) (fun _ _ _ => rfl) (fun _ _ _ _ _ => rfl),
    inverts_regs3 (fun _ _ _ => rfl) (fun _ _ _ => rfl) (fun _ _ _ _ _ => rfl),
    inverts_regs2_imm3 (fun _ _ _ => rfl) (fun _ _ _ => rfl) (fun _ _ _ _ _ => rfl),
    inverts_regs2_imm3 (fun _ _ _ => rfl) (fun _ _ _ => rfl) (fun _ _ _ _ _ => rfl),
    inverts_reg_imm8 (fun _ _ => rfl) (fun _ _ => rfl) (fun _ _ _ _ => rfl),
    inverts_reg_imm8 (fun _ _ => rfl) (fun _ _ => rfl) (fun _ _ _ _ => rfl),
    inverts_reg_imm8 (fun _ _ => rfl) (fun _ _ => rfl) (fun _ _ _ _ => rfl),
    inverts_reg_imm8 (fun _ _ => rfl) (fun _ _ => rfl) (fun _ _ _ _ => rfl),
    List.forall_mem_nil _⟩

theorem rowsF4_invert : ∀ r ∈ rowsF4, RowInverts r := by
  simp only [rowsF4, List.forall_mem_cons]
  exact ⟨
    inverts_regs2 (fun _ _ => rfl) (fun _ _ => rfl) (fun _ _ _ _ => rfl),
    inverts_regs2 (fun _ _ => rfl) (fun _ _ => rfl) (fun _ _ _ _ => rfl),
    inverts_regs2 (fun _ _ => rfl) (fun _ _ => rfl) (fun _ _ _ _ => rfl),
    inverts_regs2 (fun _ _ => rfl) (fun _ _ => rfl) (fun _ _ _ _ => rfl),
    inverts_regs2 (fun _ _ => rfl) (fun _ _ => rfl) (fun _ _ _ _ => rfl),
    inverts_regs2 (fun _ _ => rfl) (fun _ _ => rfl) (fun _ _ _ _ => rfl),
    inverts_regs2 (fun _ _ => rfl) (fun _ _ => rfl) (fun _ _ _ _ => rfl),
    inverts_regs2 (fun _ _ => rfl) (fun _ _ => rfl) (fun _ _ _ _ => rfl),
    inverts_regs2 (fun _ _ => rfl) (fun _ _ => rfl) (fun _ _ _ _ => rfl),
    inverts_regs2 (fun _ _ => rfl) (fun _ _ => rfl) (fun _ _ _ _ => rfl),
    inverts_regs2 (fun _ _ => rfl) (fun _ _ => rfl) (fun _ _ _ _ => rfl),
    inverts_regs2 (fun _ _ => rfl) (fun _ _ => rfl) (fun _ _ _ _ => rfl),
    inverts_regs2 (fun _ _ => rfl) (fun _ _ => rfl) (fun _ _ _ _ => rfl),
    inverts_regs2 (fun _ _ => rfl) (fun _ _ => rfl) (fun _ _ _ _ => rfl),
    inverts_regs2 (fun _ _ => rfl) (fun _ _ => rfl) (fun _ _ _ _ => rfl),
    inverts_regs2 (fun _ _ => rfl) (fun _ _ => rfl) (fun _ _ _ _ => rfl),
    List.forall_mem_nil _⟩

theorem rowsF5_invert : ∀ r ∈ rowsF5, RowInverts r := by
  simp only [rowsF5, List.forall_mem_cons]
  exact ⟨
    inverts_split_reg (fun _ _ => rfl) (fun _ _ => rfl) (fun _ _ _ _ => rfl),
    inverts_split_reg (fun _ _ => rfl) (fun _ _ => rfl) (fun _ _ _ _ => rfl),
    inverts_split_reg (fun _ _ => rfl) (fun _ _ => rfl) (fun _ _ _ _ => rfl),
    inverts_reg_ignored (fun _ => rfl) (fun _ => rfl) (fun _ _ _ => rfl),
    inverts_reg_ignored (fun _ => rfl) (fun _ => rfl) (fun _ _ _ => rfl),
    List.forall_mem_nil _⟩

theorem rowsF6toF9_invert : ∀ r ∈ rowsF6toF9, RowInverts r := by
  simp only [rowsF6toF9, List.forall_mem_cons]
  exact ⟨
    inverts_reg_imm8 (fun _ _ => rfl) (fun _ _ => rfl) (fun _ _ _ _ => rfl),
    inverts_regs3 (fun _ _ _ => rfl) (fun _ _ _ => rfl) (fun _ _ _ _ _ => rfl),
    inverts_regs3 (fun _ _ _ => rfl) (fun _ _ _ => rfl) (fun _ _ _ _ _ => rfl),
    inverts_regs3 (fun _ _ _ => rfl) (fun _ _ _ => rfl) (fun _ _ _ _ _ => rfl),
    inverts_regs3 (fun _ _ _ => rfl) (fun _ _ _ => rfl) (fun _ _ _ _ _ => rfl),
    inverts_regs3 (fun _ _ _ => rfl) (fun _ _ _ => rfl) (fun _ _ _ _ _ => rfl),
    inverts_regs3 (fun _ _ _ => rfl) (fun _ _ _ => rfl) (fun _ _ _ _ _ => rfl),
    inverts_regs3 (fun _ _ _ => rfl) (fun _ _ _ => rfl) (fun _ _ _ _ _ => rfl),
    inverts_regs3 (fun _ _ _ => rfl) (fun _ _ _ => rfl) (fun _ _ _ _ _ => rfl),
    inverts_regs2_imm5 (fun _ _ _ => rfl) (fun _ _ _ => rfl) (fun _ _ _ _ _ => rfl),
    inverts_regs2_imm5 (fun _ _ _ => rfl) (fun _ _ _ => rfl) (fun _ _ _ _ _ => rfl),
    inverts_regs2_imm5 (fun _ _ _ => rfl) (fun _ _ _ => rfl) (fun _ _ _ _ _ => rfl),
    inverts_regs2_imm5 (fun _ _ _ => rfl) (fun _ _ _ => rfl) (fun _ _ _ _ _ => rfl),
    inverts_regs2_imm5 (fun _ _ _ => rfl) (fun _ _ _ => rfl) (fun _ _ _ _ _ => rfl),
    inverts_regs2_imm5 (fun _ _ _ => rfl) (fun _ _ _ => rfl) (fun _ _ _ _ _ => rfl),
    inverts_reg_imm8 (fun _ _ => rfl) (fun _ _ => rfl) (fun _ _ _ _ => rfl),
    inverts_reg_imm8 (fun _ _ => rfl) (fun _ _ => rfl) (fun _ _ _ _ => rfl),
    List.forall_mem_nil _⟩

theorem rowsF10toF15_invert : ∀ r ∈ rowsF10toF15, RowInverts r := by
  simp only [rowsF10toF15, List.forall_mem_cons]
  exact ⟨
    inverts_reg_imm8 (fun _ _ => rfl) (fun _ _ => rfl) (fun _ _ _ _ => rfl),
    inverts_reg_imm8 (fun _ _ => rfl) (fun _ _ => rfl) (fun _ _ _ _ => rfl),
    inverts_imm (by decide) rfl (fun _ => rfl) (fun _ => rfl) (fun _ _ _ => rfl),
    inverts_imm (by decide) rfl (fun _ => rfl) (fun _ => rfl) (fun _ _ _ => rfl),
    inverts_regs2 (fun _ _ => rfl) (fun _ _ => rfl) (fun _ _ _ _ => rfl),
    inverts_regs2 (fun _ _ => rfl) (fun _ _ => rfl) (fun _ _ _ _ => rfl),
    inverts_regs2 (fun _ _ => rfl) (fun _ _ => rfl) (fun _ _ _ _ => rfl),
    inverts_regs2 (fun _ _ => rfl) (fun _ _ => rfl) (fun _ _ _ _ => rfl),
    inverts_regs2 (fun _ _ => rfl) (fun _ _ => rfl) (fun _ _ _ _ => rfl),
    inverts_regs2 (fun _ _ => rfl) (fun _ _ => rfl) (fun _ _ _ _ => rfl),
    inverts_regs2 (fun _ _ => rfl) (fun _ _ => rfl) (fun _ _ _ _ => rfl),
    inverts_list_bit (fun _ _ => rfl) (fun _ _ => rfl) (fun _ _ _ _ => rfl),
    inverts_list_bit (fun _ _ => rfl) (fun _ _ => rfl) (fun _ _ _ _ => rfl),
    inverts_reg_imm8 (fun _ _ => rfl) (fun _ _ => rfl) (fun _ _ _ _ => rfl),
    inverts_reg_imm8 (fun _ _ => rfl) (fun _ _ => rfl) (fun _ _ _ _ => rfl),
    List.forall_mem_nil _⟩

theorem rowsF16toF20_invert : ∀ r ∈ rowsF16toF20, RowInverts r := by
  simp only [rowsF16toF20, List.forall_mem_cons]
  exact ⟨
    inverts_imm (by decide) rfl (fun _ => rfl) (fun _ => rfl) (fun _ _ _ => rfl),
    inverts_imm (by decide) rfl (fun _ => rfl) (fun _ => rfl) (fun _ _ _ => rfl),
    inverts_imm (by decide) rfl (fun _ => rfl) (fun _ => rfl) (fun _ _ _ => rfl),
    inverts_imm (by decide) rfl (fun _ => rfl) (fun _ => rfl) (fun _ _ _ => rfl),
    inverts_imm (by decide) rfl (fun _ => rfl) (fun _ => rfl) (fun _ _ _ => rfl),
    inverts_imm (by decide) rfl (fun _ => rfl) (fun _ => rfl) (fun _ _ _ => rfl),
    inverts_imm (by decide) rfl (fun _ => rfl) (fun _ => rfl) (fun _ _ _ => rfl),
    inverts_imm (by decide) rfl (fun _ => rfl) (fun _ => rfl) (fun _ _ _ => rfl),
    inverts_imm (by decide) rfl (fun _ => rfl) (fun _ => rfl) (fun _ _ _ => rfl),
    inverts_imm (by decide) rfl (fun _ => rfl) (fun _ => rfl) (fun _ _ _ => rfl),
    inverts_imm (by decide) rfl (fun _ => rfl) (fun _ => rfl) (fun _ _ _ => rfl),
    inverts_imm (by decide) rfl (fun _ => rfl) (fun _ => rfl) (fun _ _ _ => rfl),
    inverts_imm (by decide) rfl (fun _ => rfl) (fun _ => rfl) (fun _ _ _ => rfl),
    inverts_imm (by decide) rfl (fun _ => rfl) (fun _ => rfl) (fun _ _ _ => rfl),
    inverts_imm (by decide) rfl (fun _ => rfl) (fun _ => rfl) (fun _ _ _ => rfl),
    inverts_imm (by decide) rfl (fun _ => rfl) (fun _ => rfl) (fun _ _ _ => rfl),
    inverts_imm (by decide) rfl (fun _ => rfl) (fun _ => rfl) (fun _ _ _ => rfl),
    inverts_imm (by decide) rfl (fun _ => rfl) (fun _ => rfl) (fun _ _ _ => rfl),
    inverts_mrs,
    inverts_msr,
    inverts_option (fun _ => rfl) (fun _ => rfl) (fun _ _ _ => rfl),
    inverts_option (fun _ => rfl) (fun _ => rfl) (fun _ _ _ => rfl),
    inverts_option (fun _ => rfl) (fun _ => rfl) (fun _ _ _ => rfl),
    List.forall_mem_nil _⟩

/-- Every row of the table is inverted by the encoder. -/
theorem opcodeTable_inverts : ∀ r ∈ opcodeTable, RowInverts r := by
  simp only [opcodeTable, List.forall_mem_append]
  exact ⟨⟨⟨⟨⟨rowsF1toF3_invert, rowsF4_invert⟩, rowsF5_invert⟩, rowsF6toF9_invert⟩,
    rowsF10toF15_invert⟩, rowsF16toF20_invert⟩

theorem encode_of_decode {hw next : Half} {i : Instr} (h : decode hw next = .ok i) :
    wellFormed i = true ∧ encode i = halvesBack i hw next := by
  obtain ⟨r, hr, hhits, rfl⟩ := row_of_decode h
  exact opcodeTable_inverts r hr hw next hhits

/-- Settles O52: what decodes comes from a row, and every row is inverted. -/
theorem encodeInvertsDecode : Obligations.EncodeInvertsDecode := by
  intro hw next i h
  obtain ⟨hwf, hencode⟩ := encode_of_decode h
  refine ⟨hwf, ?_⟩
  cases i <;> exact hencode

end Sys2Proof.Proofs
end

section
/-! # 30_encoding.md R124: the rows of the table as spans of halfwords, and what they leave out -/

namespace Sys2Proof.Proofs

open Sys2Proof Sys2Proof.Machine Sys2Proof.Claims Sys2Proof.Laws

/-- The first number after a span that fixes the bits `m` to `p`. -/
def spanEnd (m p : Half) : Nat := p.toNat + (0x10000 - m.toNat)

/-- The mask fixes the bits above some bit, and the pattern has no others. -/
def fixesHighBits (m p : Half) : Bool :=
  (List.range 16).any fun j => m == BitVec.ofNat 16 (2 ^ 16 - 2 ^ j) && p.toNat % 2 ^ j == 0

/-- A match under such a mask is membership in the span. -/
theorem match_iff_span {m p x : Half} (h : fixesHighBits m p = true) :
    (x &&& m == p) = true ↔ p.toNat ≤ x.toNat ∧ x.toNat < spanEnd m p := by
  obtain ⟨j, hj, hmp⟩ := List.any_eq_true.mp h
  obtain ⟨hm, hp⟩ := Bool.and_eq_true_iff.mp hmp
  obtain rfl := beq_iff_eq.mp hm
  have hj : j ≤ 16 := (List.mem_range.mp hj).le
  have hpow : 2 ^ j ≤ 2 ^ 16 := Nat.pow_le_pow_right two_pos hj
  have hpos : 0 < 2 ^ j := Nat.two_pow_pos j
  have hsize : 0x10000 - (BitVec.ofNat 16 (2 ^ 16 - 2 ^ j)).toNat = 2 ^ j := by
    rw [BitVec.toNat_ofNat, Nat.mod_eq_of_lt (by omega)]
    omega
  obtain ⟨q, hq⟩ := Nat.dvd_of_mod_eq_zero (beq_iff_eq.mp hp)
  rw [beq_iff_eq, BitVec.toNat_eq, and_highMask x j hj, spanEnd, hsize, hq, mul_comm, ← Nat.mul_succ,
    Nat.mul_left_cancel_iff hpos, Nat.div_eq_iff hpos, mul_comm q, Nat.lt_iff_le_pred (by positivity)]
  rfl

/-- The row matches halfwords by spans, also the second one where it looks at it. -/
def matchesSpans (r : Row) : Bool :=
  fixesHighBits r.mask r.pattern &&
    match r.next with
    | none => true
    | some (m, p) => fixesHighBits m p

theorem opcodeTable_matchesSpans : ∀ r ∈ opcodeTable, matchesSpans r = true := by decide

theorem rowHits_span {r : Row} (hr : r ∈ opcodeTable) {hw next : Half} (h : rowHits r hw next = true) :
    r.pattern.toNat ≤ hw.toNat ∧ hw.toNat < spanEnd r.mask r.pattern :=
  (match_iff_span (Bool.and_eq_true_iff.mp (opcodeTable_matchesSpans r hr)).1).mp
    (Bool.and_eq_true_iff.mp h).1

theorem rowHits_spanNext {r : Row} (hr : r ∈ opcodeTable) {hw next m p : Half}
    (h : rowHits r hw next = true) (hnext : r.next = some (m, p)) :
    p.toNat ≤ next.toNat ∧ next.toNat < spanEnd m p := by
  have hspans := (Bool.and_eq_true_iff.mp (opcodeTable_matchesSpans r hr)).2
  have hhit := (Bool.and_eq_true_iff.mp h).2
  simp only [hnext] at hspans hhit
  exact (match_iff_span hspans).mp hhit

theorem rowHits_of_span {m p hw next : Half} {f : Half → Half → Instr}
    (hr : (⟨m, p, none, f⟩ : Row) ∈ opcodeTable) (hlo : p.toNat ≤ hw.toNat) (hhi : hw.toNat < spanEnd m p) :
    rowHits ⟨m, p, none, f⟩ hw next = true :=
  rowHits_one ((match_iff_span (Bool.and_eq_true_iff.mp (opcodeTable_matchesSpans _ hr)).1).mpr ⟨hlo, hhi⟩)

theorem decode_of_spans {m p m' p' hw next : Half} {f : Half → Half → Instr}
    (hr : (⟨m, p, some (m', p'), f⟩ : Row) ∈ opcodeTable) (hlo : p.toNat ≤ hw.toNat)
    (hhi : hw.toNat < spanEnd m p) (hlo' : p'.toNat ≤ next.toNat) (hhi' : next.toNat < spanEnd m' p')
    {e : Unrecognised} : decode hw next ≠ .error e := by
  obtain ⟨hfirst, hsecond⟩ := Bool.and_eq_true_iff.mp (opcodeTable_matchesSpans _ hr)
  rw [decode_of_row hr (rowHits_two ((match_iff_span hfirst).mpr ⟨hlo, hhi⟩)
    ((match_iff_span hsecond).mpr ⟨hlo', hhi'⟩))]
  exact fun h => nomatch h

/-! ### The rows that look at one halfword, and the gaps between them, cover all halfwords -/

/-- The ranges of R124: the last one is for what follows to decide. -/
def gaps : List (Nat × Nat) :=
  [(0xB100, 0xB200), (0xB300, 0xB400), (0xB600, 0xBA00), (0xBA80, 0xBAC0), (0xBB00, 0xBC00),
    (0xBE00, 0xC000), (0xDE00, 0xDF00), (0xE800, 0xF000), (0xF000, 0xF800)]

/-- The spans of the rows that do not look at the second halfword. -/
def oneHalfSpans : List (Nat × Nat) :=
  (opcodeTable.filter fun r => r.next.isNone).map fun r => (r.pattern.toNat, spanEnd r.mask r.pattern)

/-- Spans, each beginning where another ends, lead from `lo` to 2^16 in at most `n` steps. -/
def leadsToEnd (spans : List (Nat × Nat)) : Nat → Nat → Bool
  | 0, lo => lo == 0x10000
  | n + 1, lo =>
    match spans.find? fun c => c.1 == lo with
    | some c => leadsToEnd spans n c.2
    | none => lo == 0x10000

theorem mem_span_of_leadsToEnd {spans : List (Nat × Nat)} {n lo a : Nat}
    (h : leadsToEnd spans n lo = true) (hlo : lo ≤ a) (ha : a < 0x10000) :
    ∃ c ∈ spans, c.1 ≤ a ∧ a < c.2 := by
  induction n generalizing lo with
  | zero => simp only [leadsToEnd, beq_iff_eq] at h; omega
  | succ n ih =>
    unfold leadsToEnd at h
    split at h
    · rename_i c hfind
      have hstart : c.1 = lo := by simpa using List.find?_some hfind
      by_cases hin : a < c.2
      · exact ⟨c, List.mem_of_find?_eq_some hfind, hstart ▸ hlo, hin⟩
      · exact ih h (not_lt.mp hin)
    · rw [beq_iff_eq] at h; omega

theorem spans_lead_to_end : leadsToEnd (oneHalfSpans ++ gaps) 91 0 = true := by decide

/-- A halfword lies in a gap or in the span of a row that does not look further. -/
theorem gap_or_oneHalf (hw : Half) :
    (∃ c ∈ gaps, c.1 ≤ hw.toNat ∧ hw.toNat < c.2) ∨ ∀ next, ∃ i, decode hw next = .ok i := by
  obtain ⟨c, hc, hlo, hhi⟩ := mem_span_of_leadsToEnd spans_lead_to_end (Nat.zero_le _) hw.isLt
  rcases List.mem_append.mp hc with hspan | hgap
  · obtain ⟨⟨m, p, n, f⟩, hr, rfl⟩ := List.mem_map.mp hspan
    obtain ⟨hr, hnone⟩ := List.mem_filter.mp hr
    obtain rfl := Option.isNone_iff_eq_none.mp hnone
    exact .inr fun next => ⟨_, decode_of_row hr (rowHits_of_span hr hlo hhi)⟩
  · exact .inl ⟨c, hgap, hlo, hhi⟩

/-- No row that does not look further reaches into a gap, and the others lie in the last gap. -/
theorem rows_apart_from_gaps : ∀ r ∈ opcodeTable, ∀ c ∈ gaps,
    (r.next.isNone ∨ c ≠ (0xF000, 0xF800)) →
      spanEnd r.mask r.pattern ≤ c.1 ∨ c.2 ≤ r.pattern.toNat := by
  decide

theorem not_gap_of_rowHits {r : Row} (hr : r ∈ opcodeTable) {hw next : Half}
    (h : rowHits r hw next = true) {c : Nat × Nat} (hc : c ∈ gaps)
    (hlast : r.next.isNone ∨ c ≠ (0xF000, 0xF800)) : ¬ (c.1 ≤ hw.toNat ∧ hw.toNat < c.2) := by
  have hspan := rowHits_span hr h
  have hapart := rows_apart_from_gaps r hr c hc hlast
  omega

/-- The masks and patterns of the rows that look at the second halfword. -/
theorem twoHalf_rows : ∀ r ∈ opcodeTable, r.next.isNone ∨
    (r.mask, r.pattern, r.next) ∈ ([(0xF800, 0xF000, some (0xF800, 0xF800)),
      (0xFFFF, 0xF3EF, some (0xF000, 0x8000)), (0xFFF0, 0xF380, some (0xFF00, 0x8800)),
      (0xFFFF, 0xF3BF, some (0xFFF0, 0x8F40)), (0xFFFF, 0xF3BF, some (0xFFF0, 0x8F50)),
      (0xFFFF, 0xF3BF, some (0xFFF0, 0x8F60))] : List (Half × Half × Option (Half × Half))) := by
  decide

/-- Before which halfwords `a` of `0xF000` to `0xF7FF` is an instruction: the first half of BL, MRS, MSR, or one of
the three barriers (R120, R121). -/
def completedBy (a b : Nat) : Prop :=
  0xF800 ≤ b ∨ (a = 0xF3EF ∧ 0x8000 ≤ b ∧ b ≤ 0x8FFF) ∨
    (0xF380 ≤ a ∧ a ≤ 0xF38F ∧ 0x8800 ≤ b ∧ b ≤ 0x88FF) ∨ (a = 0xF3BF ∧ 0x8F40 ≤ b ∧ b ≤ 0x8F6F)

/-- In the last gap the second halfword decides. -/
theorem completedBy_of_rowHits {r : Row} (hr : r ∈ opcodeTable) {hw next : Half}
    (h : rowHits r hw next = true) (hlo : 0xF000 ≤ hw.toNat) (hhi : hw.toNat < 0xF800) :
    completedBy hw.toNat next.toNat := by
  rcases twoHalf_rows r hr with hnone | htwo
  · exact absurd ⟨hlo, hhi⟩ (not_gap_of_rowHits hr h (c := (0xF000, 0xF800)) (by decide) (.inl hnone))
  · obtain ⟨m, p, n, f⟩ := r
    have hspan := rowHits_span hr h
    simp only [List.mem_cons, Prod.mk.injEq, List.not_mem_nil, or_false] at htwo
    rcases htwo with ⟨rfl, rfl, rfl⟩ | ⟨rfl, rfl, rfl⟩ | ⟨rfl, rfl, rfl⟩ | ⟨rfl, rfl, rfl⟩ |
      ⟨rfl, rfl, rfl⟩ | ⟨rfl, rfl, rfl⟩ <;>
    · have hnext := rowHits_spanNext hr h rfl
      simp only [spanEnd, BitVec.reduceToNat] at hspan hnext
      unfold completedBy
      omega

theorem not_completedBy_of_error {hw next : Half} {e : Unrecognised} (h : decode hw next = .error e)
    (hlo : 0xF000 ≤ hw.toNat) (hhi : hw.toNat < 0xF800) : ¬ completedBy hw.toNat next.toNat := by
  have hlt := next.isLt
  rintro (hbl | ⟨ha, hb, hb'⟩ | ⟨ha, ha', hb, hb'⟩ | ⟨ha, hb, hb'⟩)
  case inl =>
    exact decode_of_spans (m := 0xF800) (p := 0xF000) (m' := 0xF800) (p' := 0xF800)
      (f := fun hw _ => .blPrefix (hw.extractLsb' 0 11)) (by simp [opcodeTable, rowsF16toF20])
      hlo hhi hbl hlt h
  case inr.inl =>
    exact decode_of_spans (m := 0xFFFF) (p := 0xF3EF) (m' := 0xF000) (p' := 0x8000)
      (f := fun _ hw2 => .mrs (regField hw2 8) (hw2.extractLsb' 0 8))
      (by simp [opcodeTable, rowsF16toF20]) ha.ge (Nat.lt_succ_of_le ha.le) hb (Nat.lt_succ_of_le hb') h
  case inr.inr.inl =>
    exact decode_of_spans (m := 0xFFF0) (p := 0xF380) (m' := 0xFF00) (p' := 0x8800)
      (f := fun hw hw2 => .msr (regField hw 0) (hw2.extractLsb' 0 8))
      (by simp [opcodeTable, rowsF16toF20]) ha (Nat.lt_succ_of_le ha') hb (Nat.lt_succ_of_le hb') h
  case inr.inr.inr =>
    have hfirst : hw.toNat < spanEnd 0xFFFF 0xF3BF := Nat.lt_succ_of_le ha.le
    obtain hdsb | ⟨hdmb, hdmb'⟩ | hisb :
      next.toNat < 0x8F50 ∨ (0x8F50 ≤ next.toNat ∧ next.toNat < 0x8F60) ∨ 0x8F60 ≤ next.toNat := by omega
    · exact decode_of_spans (p := 0xF3BF) (m' := 0xFFF0) (p' := 0x8F40)
        (f := fun _ hw2 => .dsb (hw2.extractLsb' 0 4)) (by simp [opcodeTable, rowsF16toF20])
        ha.ge hfirst hb hdsb h
    · exact decode_of_spans (p := 0xF3BF) (m' := 0xFFF0) (p' := 0x8F50)
        (f := fun _ hw2 => .dmb (hw2.extractLsb' 0 4)) (by simp [opcodeTable, rowsF16toF20])
        ha.ge hfirst hdmb hdmb' h
    · exact decode_of_spans (p := 0xF3BF) (m' := 0xFFF0) (p' := 0x8F60)
        (f := fun _ hw2 => .isb (hw2.extractLsb' 0 4)) (by simp [opcodeTable, rowsF16toF20])
        ha.ge hfirst hisb (Nat.lt_succ_of_le hb') h

/-- A halfword is rejected exactly in the gaps, in the last one if what follows does not complete it. -/
theorem rejected_iff (hw next : Half) :
    (∃ e, decode hw next = .error e) ↔
      (∃ c ∈ gaps, c ≠ (0xF000, 0xF800) ∧ c.1 ≤ hw.toNat ∧ hw.toNat < c.2) ∨
      (0xF000 ≤ hw.toNat ∧ hw.toNat < 0xF800 ∧ ¬ completedBy hw.toNat next.toNat) := by
  constructor
  · rintro ⟨e, he⟩
    rcases gap_or_oneHalf hw with ⟨c, hc, hlo, hhi⟩ | hdecodes
    · by_cases hlast : c = (0xF000, 0xF800)
      · subst hlast
        exact .inr ⟨hlo, hhi, not_completedBy_of_error he hlo hhi⟩
      · exact .inl ⟨c, hc, hlast, hlo, hhi⟩
    · obtain ⟨i, hi⟩ := hdecodes next
      rw [hi] at he
      cases he
  · intro hrange
    cases hdecode : decode hw next with
    | error e => exact ⟨e, rfl⟩
    | ok i =>
      obtain ⟨r, hr, hhits, -⟩ := row_of_decode hdecode
      rcases hrange with ⟨c, hc, hlast, hin⟩ | ⟨hlo, hhi, hcomplete⟩
      · exact absurd hin (not_gap_of_rowHits hr hhits hc (.inr hlast))
      · exact absurd (completedBy_of_rowHits hr hhits hlo hhi) hcomplete

/-- Settles O53: the gaps are the ranges of R124. -/
theorem unrecognisedExactlyThese : Obligations.UnrecognisedExactlyThese := by
  intro hw next
  simp only [rejected_iff, gaps, completedBy, List.mem_cons, List.not_mem_nil, or_false, or_and_right,
    exists_or, exists_eq_left, ne_eq, Prod.mk.injEq, Nat.reduceEqDiff, false_and, not_false_eq_true,
    true_and, and_self, not_true_eq_false]
  omega

/-- An instruction of two halfwords is what they decode to. -/
theorem decode_of_encode_pair {hw hw2 : Half} {i : Instr} (wf : wellFormed i = true)
    (admits : ∀ next, admitsNext i next = true) (encoded : encode i = [hw, hw2]) :
    decode hw hw2 = .ok i := by
  obtain ⟨first, rest, hsplit, hdecode⟩ := encodingRoundTrip i wf 0 (admits 0)
  obtain ⟨rfl, rfl⟩ : hw = first ∧ [hw2] = rest := by simpa [encoded] using hsplit
  exact hdecode

/-- An instruction of one halfword is what that decodes to, before every halfword its encoding admits. -/
theorem decode_of_encode_one {hw next : Half} {i : Instr} (wf : wellFormed i = true)
    (admits : admitsNext i next = true) (encoded : encode i = [hw]) : decode hw next = .ok i := by
  obtain ⟨first, rest, hsplit, hdecode⟩ := encodingRoundTrip i wf next admits
  obtain ⟨rfl, rfl⟩ : hw = first ∧ [] = rest := by simpa [encoded] using hsplit
  exact hdecode

/-- Settles O54: each word is what the encoder writes for its instruction. -/
theorem specWordsDecode : Obligations.SpecWordsDecode := by
  refine ⟨?_, ?_, ?_, ?_, ?_, ?_, ?_, ?_, ?_, ?_, ?bl, ?mrs⟩
  case bl => exact decode_of_encode_one (by decide) (by decide) (by decide)
  case mrs => exact decode_of_encode_pair (by decide) (fun _ => rfl) (by decide)
  all_goals exact fun next => decode_of_encode_one (by decide) rfl (by decide)

end Sys2Proof.Proofs
end

section
/-! # 41_alu_flags.md section 3 and 10_state.md R30: what the conditions mean after a compare, and the PSR
image -/

namespace Sys2Proof.Proofs

open Sys2Proof Sys2Proof.Machine Sys2Proof.Claims Sys2Proof.Laws

/-- R161: the complement with carry in subtracts. -/
theorem subtract_result (a b : Word) : (subtract a b).result = a - b := by
  have ha := a.isLt
  have hb := b.isLt
  apply BitVec.eq_of_toNat_eq
  simp only [subtract, addWithCarry, BitVec.toNat_ofNat, BitVec.toNat_not, Bool.toNat_true, BitVec.toNat_sub]
  omega

/-- The carry of a subtraction is set where nothing is borrowed. -/
theorem subtract_carry (a b : Word) : (subtract a b).carry = decide (b.toNat ≤ a.toNat) := by
  have ha := a.isLt
  have hb := b.isLt
  simp only [subtract, addWithCarry, BitVec.toNat_not, Bool.toNat_true, decide_eq_decide]
  omega

/-- The overflow of a subtraction is set where the signed difference leaves the range of a word. -/
theorem subtract_overflow (a b : Word) : (subtract a b).overflow =
    decide (¬ (-2 ^ 31 ≤ a.toInt - b.toInt ∧ a.toInt - b.toInt ≤ 2 ^ 31 - 1)) := by
  have ha := a.isLt
  have hb := b.isLt
  have hoverflow : (subtract a b).overflow =
      ((a.msb == (~~~b).msb) && ((subtract a b).result.msb != a.msb)) := rfl
  rw [hoverflow, subtract_result, Bool.eq_iff_iff]
  simp only [Bool.and_eq_true, beq_iff_eq, bne_iff_ne, ne_eq, BitVec.msb_eq_decide, decide_eq_decide,
    decide_eq_true_eq, BitVec.toNat_not, BitVec.toNat_sub, BitVec.toInt_eq_toNat_cond]
  split_ifs <;> omega

/-- N and V of a subtraction together decide the signed order. -/
theorem subtract_sign_ne_overflow (a b : Word) :
    (subtract a b).result.msb ≠ (subtract a b).overflow ↔ a.toInt < b.toInt := by
  have ha := a.isLt
  have hb := b.isLt
  rw [subtract_overflow, subtract_result]
  simp only [ne_eq, BitVec.msb_eq_decide, decide_eq_decide, BitVec.toNat_sub, BitVec.toInt_eq_toNat_cond]
  split_ifs <;> omega

/-- Settles O2: each condition is read off the four flags of the subtraction. -/
theorem compareDecidesOrder : Obligations.CompareDecidesOrder := by
  intro a b f
  have hn : f.n = (a - b).getLsbD 31 := by
    show (subtract a b).result.msb = _
    rw [subtract_result, word_msb]
  have hz : f.z = decide (a = b) := by
    show ((subtract a b).result == 0) = _
    rw [subtract_result, beq_eq_decide, decide_eq_decide]
    exact sub_eq_zero
  have hc : f.c = decide (b.toNat ≤ a.toNat) := subtract_carry a b
  have hv : f.v = decide (¬ (-2 ^ 31 ≤ a.toInt - b.toInt ∧ a.toInt - b.toInt ≤ 2 ^ 31 - 1)) :=
    subtract_overflow a b
  have hlt : ¬ f.n = f.v ↔ a.toInt < b.toInt := subtract_sign_ne_overflow a b
  have hge : f.n = f.v ↔ b.toInt ≤ a.toInt := by rw [← not_iff_not, hlt, not_le]
  have hnat : f.z = decide (a.toNat = b.toNat) := by rw [hz, decide_eq_decide, BitVec.toNat_inj]
  have hint : f.z = decide (a.toInt = b.toInt) := by rw [hz, decide_eq_decide, BitVec.toInt_inj]
  refine ⟨?eq, ?ne, ?cs, ?cc, ?hi, ?ls, ?ge, ?lt, ?gt, ?le, ?mi, ?pl, ?vs, ?vc⟩
  case eq => simp [condHolds, hz]
  case ne => simp [condHolds, hz]
  case cs => simp [condHolds, hc]
  case cc => simp [condHolds, hc]
  case hi =>
    simp only [condHolds, hnat, hc, Bool.and_eq_true, decide_eq_true_eq, Bool.not_eq_true', decide_eq_false_iff_not]
    omega
  case ls =>
    simp only [condHolds, hnat, hc, Bool.or_eq_true, decide_eq_true_eq, Bool.not_eq_true', decide_eq_false_iff_not]
    omega
  case ge => simp only [condHolds, beq_iff_eq, hge]
  case lt => simp only [condHolds, bne_iff_ne, hlt]
  case gt =>
    simp only [condHolds, hint, Bool.and_eq_true, beq_iff_eq, hge, Bool.not_eq_true', decide_eq_false_iff_not]
    omega
  case le =>
    simp only [condHolds, hint, Bool.or_eq_true, bne_iff_ne, hlt, decide_eq_true_eq]
    omega
  case mi => simp [condHolds, hn]
  case pl => simp [condHolds, hn]
  case vs => rw [← decide_eq_true_iff (p := ¬ _), ← hv]; rfl
  case vc => simp only [condHolds, hv, Bool.not_eq_true', decide_eq_false_iff_not, not_not]

/-- Bit `k` of the image, counted from the top flag. -/
theorem psrImage_bits (f : Flags) :
    (psrImage f).getLsbD 31 = f.n ∧ (psrImage f).getLsbD 30 = f.z ∧ (psrImage f).getLsbD 29 = f.c ∧
    (psrImage f).getLsbD 28 = f.v := by
  obtain ⟨n, z, c, v⟩ := f
  revert n z c v
  decide

/-- R30: the model puts the flags side by side, the rule adds them up. -/
theorem psrImage_eq_psrWord (f : Flags) : psrImage f = psrWord f := by
  obtain ⟨n, z, c, v⟩ := f
  revert n z c v
  decide

/-- The four top bits of a word, added up, are the word without the others. -/
theorem psrWord_flagsOfPsr (w : Word) : psrWord (flagsOfPsr w) = w &&& 0xF0000000#32 := by
  have hlt := w.isLt
  have hcleared : w >>> 28 <<< 28 = w &&& 0xF0000000#32 := BitVec.shiftLeft_ushiftRight
  have bit (k : Nat) : (w.getLsbD k).toNat = w.toNat / 2 ^ k % 2 := Nat.toNat_testBit _ _
  apply BitVec.eq_of_toNat_eq
  simp only [psrWord, flagsOfPsr, bit, ← hcleared, BitVec.toNat_ofNat, BitVec.toNat_shiftLeft,
    BitVec.toNat_ushiftRight, Nat.shiftLeft_eq, Nat.shiftRight_eq_div_pow]
  omega

/-- Settles O3: the four flags stand in the four top bits, and nothing below. -/
theorem psrImageRoundTrip : Obligations.PsrImageRoundTrip := by
  intro f w
  refine ⟨?layout, ?readBack, ?image⟩
  case layout => exact psrImage_eq_psrWord f
  case readBack =>
    obtain ⟨hn, hz, hc, hv⟩ := psrImage_bits f
    have hmask : ∀ k ∈ [28, 29, 30, 31], (0x0FFFFFFF#32).getLsbD k = false := by decide
    simp only [flagsOfPsr, BitVec.getLsbD_or, BitVec.getLsbD_and, hn, hz, hc, hv, hmask, List.mem_cons,
      true_or, or_true, Bool.and_false, Bool.or_false]
  case image => rw [psrImage_eq_psrWord, psrWord_flagsOfPsr]

end Sys2Proof.Proofs
end

section
/-! # 43, 44, 46, 48 and 49: the other instructions without a memory access -/

namespace Sys2Proof.Proofs

open Sys2Proof Sys2Proof.Machine Sys2Proof.Claims Sys2Proof.Laws

/-! ### Layouts -/

@[simp] theorem high_val (f : BitVec 4) : (high f).val = f.toNat := rfl

theorem decodesTo_of_encoded {hw : Half} {i : Instr} (wf : wellFormed i = true)
    (admits : ∀ next, admitsNext i next = true) (encoded : encode i = [hw]) : decodesTo hw i :=
  fun next => decode_of_encode_one wf (admits next) encoded

/-- Format F5 (R107): `oooooooo D mmmm ddd`. -/
theorem layout_F5 (op : BitVec 8) (dHigh : BitVec 1) (m : BitVec 4) (dLow : BitVec 3) :
    op ++ dHigh ++ m ++ dLow =
      asHalf (op.toNat * 2 ^ 8 + putSplit (high (dHigh ++ dLow)) + putReg (high m) 3) := by
  have hop := op.isLt
  have hd := dHigh.isLt
  have hm := m.isLt
  have hd' := dLow.isLt
  apply BitVec.eq_of_toNat_eq
  simp only [putReg, putSplit, high_val, toNat_append_eq_add]
  rw [asHalf_toNat (by omega)]
  omega

/-- Fixed bits above one immediate (R114, R119, R120). -/
theorem layout_imm {n k : Nat} (hnk : n + k = 16) (op : BitVec n) (imm : BitVec k) :
    (op ++ imm).toNat = (asHalf (op.toNat * 2 ^ k + putImm imm 0)).toNat := by
  have hlt : (op ++ imm).toNat < 65536 := (op ++ imm).isLt.trans_eq (by rw [hnk])
  rw [toNat_append_eq_add] at hlt
  rw [toNat_append_eq_add, putImm, pow_zero, mul_one, asHalf_toNat hlt]

theorem layout_imm11 (op : BitVec 5) (imm : BitVec 11) :
    op ++ imm = asHalf (op.toNat * 2 ^ 11 + putImm imm 0) :=
  BitVec.eq_of_toNat_eq (layout_imm rfl op imm)

theorem layout_imm8 (op : BitVec 8) (imm : BitVec 8) :
    op ++ imm = asHalf (op.toNat * 2 ^ 8 + putImm imm 0) :=
  BitVec.eq_of_toNat_eq (layout_imm rfl op imm)

theorem layout_imm7 (op : BitVec 9) (imm : BitVec 7) :
    op ++ imm = asHalf (op.toNat * 2 ^ 7 + putImm imm 0) :=
  BitVec.eq_of_toNat_eq (layout_imm rfl op imm)

theorem layout_imm4 (op : BitVec 12) (imm : BitVec 4) :
    op ++ imm = asHalf (op.toNat * 2 ^ 4 + putImm imm 0) :=
  BitVec.eq_of_toNat_eq (layout_imm rfl op imm)

/-- The second halfword of MRS and the first of MSR (R121). -/
theorem layout_reg_imm8 (op r : BitVec 4) (imm8 : BitVec 8) :
    op ++ r ++ imm8 = asHalf (op.toNat * 2 ^ 12 + putReg (high r) 8 + putImm imm8 0) := by
  have hop := op.isLt
  have hr := r.isLt
  have himm := imm8.isLt
  apply BitVec.eq_of_toNat_eq
  simp only [putReg, putImm, high_val, toNat_append_eq_add]
  rw [asHalf_toNat (by omega)]
  omega

theorem layout_reg (op : BitVec 12) (r : BitVec 4) :
    op ++ r = asHalf (op.toNat * 2 ^ 4 + putReg (high r) 0) :=
  BitVec.eq_of_toNat_eq (layout_imm rfl op r)

/-! ### 43_alu_register.md and CMP of any two registers -/

theorem decodesTo_F5 {op : BitVec 8} {dHigh : BitVec 1} {m : BitVec 4} {dLow : BitVec 3} {i : Instr}
    (wf : wellFormed i = true) (admits : ∀ next, admitsNext i next = true)
    (encoded : encode i =
      [asHalf (op.toNat * 2 ^ 8 + putSplit (high (dHigh ++ dLow)) + putReg (high m) 3)]) :
    decodesTo (op ++ dHigh ++ m ++ dLow) i :=
  decodesTo_of_encoded wf admits (by rw [encoded, layout_F5])

/-- Settles O8: every answer is the rule's adder, on the complement with carry in where it subtracts. -/
theorem arithmeticRegisterResults : Obligations.ArithmeticRegisterResults := by
  refine ⟨fun d m s => ⟨⟨?adcDecodes, ?adcRuns⟩, ⟨?sbcDecodes, ?sbcRuns⟩, ⟨?negDecodes, ?negRuns⟩,
    ⟨?cmpDecodes, ?cmpRuns⟩, ⟨?cmnDecodes, ?cmnRuns⟩⟩, fun dHigh dLow m s => ⟨?hiDecodes, ?hiRuns⟩⟩
  case adcDecodes => exact f4_of_encode (EncodingRoundTrip.adcReg _ _) rfl (fun _ => rfl) rfl
  case adcRuns => exact writeSum_addWithCarry (low d) (x s (low d)) (x s (low m)) s.flags.c s
  case sbcDecodes => exact f4_of_encode (EncodingRoundTrip.sbcReg _ _) rfl (fun _ => rfl) rfl
  case sbcRuns => exact writeSum_addWithCarry (low d) (x s (low d)) (~~~ x s (low m)) s.flags.c s
  case negDecodes => exact f4_of_encode (EncodingRoundTrip.negReg _ _) rfl (fun _ => rfl) rfl
  case negRuns => exact writeSum_addWithCarry (low d) 0 (~~~ x s (low m)) true s
  case cmpDecodes => exact f4_of_encode (EncodingRoundTrip.cmpReg _ _) rfl (fun _ => rfl) rfl
  case cmpRuns => exact compareSum_addWithCarry (x s (low d)) (~~~ x s (low m)) true s
  case cmnDecodes => exact f4_of_encode (EncodingRoundTrip.cmnReg _ _) rfl (fun _ => rfl) rfl
  case cmnRuns => exact compareSum_addWithCarry (x s (low d)) (x s (low m)) false s
  case hiDecodes => exact decodesTo_F5 rfl (fun _ => rfl) rfl
  case hiRuns =>
    exact compareSum_addWithCarry (x s (high (dHigh ++ dLow))) (~~~ x s (high m)) true s

/-- R212. -/
theorem lslReg_leads (rdn rs : Reg) (s : State) :
    leads (.lslReg rdn rs) s (putNZC s rdn (lslBy (x s rdn) ((x s rs).toNat % 256) s.flags.c)) := by
  change writeShift rdn (shiftLeft (x s rdn) ((x s rs).toNat % 256) s.flags.c) s = _
  rw [shiftLeft_eq_lslBy, writeShift_eq]

/-- R213. -/
theorem lsrReg_leads (rdn rs : Reg) (s : State) :
    leads (.lsrReg rdn rs) s (putNZC s rdn (lsrBy (x s rdn) ((x s rs).toNat % 256) s.flags.c)) := by
  change writeShift rdn (shiftRight (x s rdn) ((x s rs).toNat % 256) s.flags.c) s = _
  rw [shiftRight_eq_lsrBy, writeShift_eq]

/-- R214. -/
theorem asrReg_leads (rdn rs : Reg) (s : State) :
    leads (.asrReg rdn rs) s (putNZC s rdn (asrBy (x s rdn) ((x s rs).toNat % 256) s.flags.c)) := by
  change writeShift rdn (shiftRightArith (x s rdn) ((x s rs).toNat % 256) s.flags.c) s = _
  rw [shiftRightArith_eq_asrBy, writeShift_eq]

/-- Settles O9: as for the shifts by an immediate, with the low byte of the register as amount. -/
theorem shiftRegisterResults : Obligations.ShiftRegisterResults := by
  intro d m s
  refine ⟨⟨?lslDecodes, ?lslRuns⟩, ⟨?lsrDecodes, ?lsrRuns⟩, ⟨?asrDecodes, ?asrRuns⟩⟩
  case lslDecodes => exact f4_of_encode (EncodingRoundTrip.lslReg _ _) rfl (fun _ => rfl) rfl
  case lslRuns => exact lslReg_leads (low d) (low m) s
  case lsrDecodes => exact f4_of_encode (EncodingRoundTrip.lsrReg _ _) rfl (fun _ => rfl) rfl
  case lsrRuns => exact lsrReg_leads (low d) (low m) s
  case asrDecodes => exact f4_of_encode (EncodingRoundTrip.asrReg _ _) rfl (fun _ => rfl) rfl
  case asrRuns => exact asrReg_leads (low d) (low m) s

/-! ### 44_hireg_bx.md -/

theorem writeRegOrBranch_eq (rd : Reg) (v : Word) (s : State) :
    writeRegOrBranch rd v s = .next (if rd = 15 then jump s v else put s rd v) := rfl

/-- R240: the rule adds the unsigned values and narrows. -/
theorem addHi_leads (rd rm : Reg) (s : State) :
    leads (.addHi rd rm) s
      (if rd = 15 then jump s (BitVec.ofNat 32 ((x s rd).toNat + (x s rm).toNat))
       else put s rd (BitVec.ofNat 32 ((x s rd).toNat + (x s rm).toNat))) := by
  have hsum : x s rd + x s rm = BitVec.ofNat 32 ((x s rd).toNat + (x s rm).toNat) := by
    rw [BitVec.ofNat_add, BitVec.ofNat_toNat, BitVec.ofNat_toNat, BitVec.setWidth_eq, BitVec.setWidth_eq]
  change writeRegOrBranch rd (x s rd + x s rm) s = _
  rw [hsum, writeRegOrBranch_eq]

/-- Settles O10: both decode through F5, and both answers are the shared one of a register or a branch. -/
theorem hiRegisterAddAndMove : Obligations.HiRegisterAddAndMove := by
  intro dHigh dLow m s
  refine ⟨⟨?addDecodes, ?addRuns⟩, ⟨?movDecodes, ?movRuns⟩⟩
  case addDecodes => exact decodesTo_F5 rfl (fun _ => rfl) rfl
  case addRuns => exact addHi_leads (high (dHigh ++ dLow)) (high m) s
  case movDecodes => exact decodesTo_F5 rfl (fun _ => rfl) rfl
  case movRuns => exact writeRegOrBranch_eq (high (dHigh ++ dLow)) (x s (high m)) s

/-- R107: the register of BX and BLX stands above three bits that the row does not look at. -/
theorem decodesTo_F5_branch {op : BitVec 9} {m : BitVec 4} {ignored : BitVec 3} {p : Half}
    {f : Reg → Instr} (hr : (⟨0xFF80, p, none, fun hw _ => f (regField hw 3)⟩ : Row) ∈ opcodeTable)
    (hp : p.toNat = op.toNat * 2 ^ 7) : decodesTo (op ++ m ++ ignored) (f (high m)) := by
  intro next
  have hm := m.isLt
  have hi := ignored.isLt
  have htop : (op ++ m ++ ignored : Half).toNat / 2 ^ 7 * 2 ^ 7 = p.toNat := by
    simp only [toNat_append_eq_add, hp]
    omega
  have hfield : regField (op ++ m ++ ignored) 3 = high m := by
    apply Fin.ext
    simp only [regField, high_val, toNat_append_eq_add]
    omega
  rw [decode_of_row hr (rowHits_one (highMask_match _ p 7 (by decide) htop))]
  exact congrArg (fun r => Except.ok (f r)) hfield

/-- Settles O11: both rows read the register wherever the ignored bits are, and both go to it; BLX has
read it before the link is written. -/
theorem branchExchange : Obligations.BranchExchange := by
  intro m ignored s
  refine ⟨⟨?bxDecodes, rfl⟩, ⟨?blxDecodes, rfl⟩⟩
  case bxDecodes =>
    exact decodesTo_F5_branch (p := 0x4700) (f := .bx) (by simp [opcodeTable, rowsF5]) rfl
  case blxDecodes =>
    exact decodesTo_F5_branch (p := 0x4780) (f := .blxReg) (by simp [opcodeTable, rowsF5]) rfl

/-! ### 46_address_sp_extend_reverse.md: formats F10 and F11 -/

/-- R122: scaling by a shift is multiplication, for an immediate that is narrow enough to be kept. -/
theorem immTimes4_eq {n : Nat} (imm : BitVec n) : immTimes4 imm = 4 * BitVec.ofNat 32 imm.toNat := by
  rw [immTimes4, BitVec.shiftLeft_eq_mul_twoPow, mul_comm, BitVec.ofNat_toNat]
  rfl

theorem immTimes2_eq {n : Nat} (imm : BitVec n) : immTimes2 imm = 2 * BitVec.ofNat 32 imm.toNat := by
  rw [immTimes2, BitVec.shiftLeft_eq_mul_twoPow, mul_comm, BitVec.ofNat_toNat]
  rfl

/-- Settles O18: each answer writes one register, from the base as held. -/
theorem addressAndStackAdjust : Obligations.AddressAndStackAdjust := by
  refine ⟨fun d imm8 s => ?_, fun imm7 s => ?_⟩
  · rw [← immTimes4_eq imm8]
    exact ⟨⟨decodesTo_F3 (EncodingRoundTrip.adr _ _) rfl (fun _ => rfl) rfl, rfl⟩,
      ⟨decodesTo_F3 (EncodingRoundTrip.addRdSp _ _) rfl (fun _ => rfl) rfl, rfl⟩⟩
  · rw [← immTimes4_eq imm7]
    exact ⟨⟨decodesTo_of_encoded rfl (fun _ => rfl) (by rw [layout_imm7]; rfl), rfl⟩,
      ⟨decodesTo_of_encoded rfl (fun _ => rfl) (by rw [layout_imm7]; rfl), rfl⟩⟩

/-! ### 48_branch.md -/

/-- R122: a branch offset is twice the signed immediate. -/
theorem branchOffset_eq {n : Nat} (imm : BitVec n) :
    branchOffset imm = BitVec.ofInt 32 (imm.toInt * 2) := by
  rw [branchOffset, BitVec.shiftLeft_eq_mul_twoPow, BitVec.ofInt_mul]
  rfl

/-- R122: the first half of BL counts in units of 2^12. -/
theorem longOffsetHigh_eq (imm11 : BitVec 11) :
    longOffsetHigh imm11 = BitVec.ofInt 32 (imm11.toInt * 2 ^ 12) := by
  rw [longOffsetHigh, BitVec.shiftLeft_eq_mul_twoPow, BitVec.ofInt_mul]
  rfl

theorem longOffsetLow_eq (imm11 : BitVec 11) :
    longOffsetLow imm11 = BitVec.ofNat 32 (imm11.toNat * 2) := by
  rw [longOffsetLow, BitVec.shiftLeft_eq_mul_twoPow, BitVec.ofNat_mul, BitVec.ofNat_toNat]
  rfl

/-- R119: the halfword `1101 cccc iiiiiiii`. -/
theorem decodesTo_F16 {cccc : BitVec 4} {imm8 : BitVec 8} {i : Instr} (wf : wellFormed i = true)
    (admits : ∀ next, admitsNext i next = true)
    (encoded : encode i = [asHalf ((0b1101#4 ++ cccc).toNat * 2 ^ 8 + putImm imm8 0)]) :
    decodesTo (0b1101#4 ++ cccc ++ imm8) i :=
  decodesTo_of_encoded wf admits (by rw [encoded, layout_imm8])

/-- R310: every conditional branch is the shared one, on its condition. -/
theorem branchesIf_of_cond {cccc : BitVec 4} {imm8 : BitVec 8} {i : Instr} {s : State} {taken : Bool}
    (c : Cond) (runs : exec i s = condBranch c imm8 s) (holds : condHolds c s.flags = taken)
    (wf : wellFormed i = true) (admits : ∀ next, admitsNext i next = true)
    (encoded : encode i = [asHalf ((0b1101#4 ++ cccc).toNat * 2 ^ 8 + putImm imm8 0)]) :
    branchesIf cccc imm8 i s taken := by
  refine ⟨decodesTo_F16 wf admits encoded, ?_⟩
  rw [leads, runs, condBranch, holds, branchOffset_eq]
  rfl

/-- Settles O26: eight conditions, each on one flag. -/
theorem branchesOnOneFlag : Obligations.BranchesOnOneFlag := by
  intro imm8 s
  exact ⟨branchesIf_of_cond .eq rfl rfl rfl (fun _ => rfl) rfl,
    branchesIf_of_cond .ne rfl rfl rfl (fun _ => rfl) rfl,
    branchesIf_of_cond .cs rfl rfl rfl (fun _ => rfl) rfl,
    branchesIf_of_cond .cc rfl rfl rfl (fun _ => rfl) rfl,
    branchesIf_of_cond .mi rfl rfl rfl (fun _ => rfl) rfl,
    branchesIf_of_cond .pl rfl rfl rfl (fun _ => rfl) rfl,
    branchesIf_of_cond .vs rfl rfl rfl (fun _ => rfl) rfl,
    branchesIf_of_cond .vc rfl rfl rfl (fun _ => rfl) rfl⟩

theorem bool_beq_eq_decide (a b : Bool) : (a == b) = decide (a = b) := rfl

theorem bool_bne_eq_decide (a b : Bool) : (a != b) = decide (a ≠ b) := by cases a <;> cases b <;> rfl

/-- Settles O27: six conditions on two or three flags, and B without a condition. -/
theorem branchesOnOrderAndAlways : Obligations.BranchesOnOrderAndAlways := by
  refine ⟨fun imm8 s => ⟨?hi, ?ls, ?ge, ?lt, ?gt, ?le⟩, fun imm11 s => ⟨?decodes, ?runs⟩⟩
  case hi => exact branchesIf_of_cond .hi rfl rfl rfl (fun _ => rfl) rfl
  case ls => exact branchesIf_of_cond .ls rfl rfl rfl (fun _ => rfl) rfl
  case ge => exact branchesIf_of_cond .ge rfl (bool_beq_eq_decide _ _) rfl (fun _ => rfl) rfl
  case lt => exact branchesIf_of_cond .lt rfl (bool_bne_eq_decide _ _) rfl (fun _ => rfl) rfl
  case gt =>
    exact branchesIf_of_cond .gt rfl (by rw [← bool_beq_eq_decide]; rfl) rfl (fun _ => rfl) rfl
  case le =>
    exact branchesIf_of_cond .le rfl (by rw [← bool_bne_eq_decide]; rfl) rfl (fun _ => rfl) rfl
  case decodes => exact decodesTo_of_encoded rfl (fun _ => rfl) (by rw [layout_imm11]; rfl)
  case runs => rw [← branchOffset_eq]; rfl

/-- Only one row builds the first half of BL, and it looks for the second half (R131). -/
theorem next_of_build_blPrefix : ∀ r ∈ opcodeTable, ∀ hw next imm11,
    r.build hw next = .blPrefix imm11 → r.next = some (0xF800, 0xF800) := by
  simp [opcodeTable, rowsF1toF3, rowsF4, rowsF5, rowsF6toF9, rowsF10toF15, rowsF16toF20]

/-- The second half of BL, as the condition of the row and as the rule writes it. -/
theorem isSuffix_iff (next : Half) : (next &&& 0xF800 == 0xF800) = true ↔ next.extractLsb' 11 5 = 0b11111#5 := by
  have hlt := next.isLt
  rw [match_iff_span (m := 0xF800) (p := 0xF800) (by decide), BitVec.toNat_eq, BitVec.extractLsb'_toNat,
    Nat.shiftRight_eq_div_pow]
  simp only [spanEnd, BitVec.reduceToNat]
  omega

/-- Settles O28: the row of the first half looks at the second; the answers are the rule's. -/
theorem longBranchHalves : Obligations.LongBranchHalves := by
  intro imm11 s
  refine ⟨fun next => ⟨fun h => ?onlyBefore, fun h => ?before⟩, ?firstRuns, ?decodes, ?secondRuns⟩
  case onlyBefore =>
    obtain ⟨⟨m, p, n, f⟩, hr, hhits, hbuild⟩ := row_of_decode h
    obtain rfl : n = some (0xF800, 0xF800) := next_of_build_blPrefix _ hr _ _ _ hbuild.symm
    exact (isSuffix_iff next).mp (rowHits_second hhits)
  case before =>
    exact decode_of_encode_one rfl ((isSuffix_iff next).mpr h) (by rw [layout_imm11]; rfl)
  case firstRuns => rw [← longOffsetHigh_eq]; rfl
  case decodes => exact decodesTo_of_encoded rfl (fun _ => rfl) (by rw [layout_imm11]; rfl)
  case secondRuns => rw [← longOffsetLow_eq]; rfl

/-! ### Registers, extensionally -/

theorem x_put (s : State) (r q : Reg) (v : Word) : x (put s r v) q = if q = r then v else x s q :=
  reg_setReg s r q v

theorem x_put_same (s : State) (r : Reg) (v : Word) : x (put s r v) r = v := reg_setReg_same s r v

theorem x_put_other (s : State) {r q : Reg} (v : Word) (h : q ≠ r) : x (put s r v) q = x s q :=
  reg_setReg_other s v h

theorem x_jump (s : State) (a : Word) (q : Reg) :
    x (jump s a) q = if q = 15 then (a &&& 0xFFFFFFFE#32) + 2#32 else x s q := reg_branch s a q

/-- States that agree in every register and in everything else are equal. -/
theorem state_ext {s t : State} (hregs : ∀ r, x t r = x s r) (hrest : t = { s with regs := t.regs }) :
    t = s := by
  have hsame : t.regs = s.regs := Vector.ext fun i hi => hregs ⟨i, hi⟩
  rw [hrest, hsame]

/-- The two halves of the offset make the signed 23-bit one. -/
theorem longOffset_split (hi lo : BitVec 11) :
    BitVec.ofInt 32 (hi.toInt * 2 ^ 12) + BitVec.ofNat 32 (lo.toNat * 2) =
      (hi ++ lo ++ 0b0#1).signExtend 32 := by
  have hvalue : (hi ++ lo ++ 0b0#1).toInt = hi.toInt * 2 ^ 12 + (lo.toNat * 2 : ℕ) := by
    rw [BitVec.toInt_append, if_neg (by decide), BitVec.toInt_append, if_neg (by decide)]
    simp only [BitVec.toNat_ofNat]
    push_cast
    ring
  rw [BitVec.signExtend, hvalue, BitVec.ofInt_add, BitVec.ofInt_natCast]

/-- Settles O29: the first half leaves its part of the target in the link register, and the second half adds
the rest. -/
theorem longBranchPair : Obligations.LongBranchPair := by
  intro hi lo a s hpc
  have hfirst : leads (.blPrefix hi) s (put s 14 (a + 4 + BitVec.ofInt 32 (hi.toInt * 2 ^ 12))) := by
    rw [← longOffsetHigh_eq, ← hpc]
    rfl
  refine ⟨_, hfirst, ?_⟩
  set t := put s 14 (a + 4 + BitVec.ofInt 32 (hi.toInt * 2 ^ 12)) with ht
  have hlink : x (put t 15 (x t 15 + 2)) 15 - 2 = a + 4 := by
    rw [x_put_same, ht, x_put_other _ _ (by decide), hpc, BitVec.add_sub_cancel]
  have htarget : x (put t 15 (x t 15 + 2)) 14 + BitVec.ofNat 32 (lo.toNat * 2) =
      a + 4 + (hi ++ lo ++ 0b0#1).signExtend 32 := by
    rw [x_put_other _ _ (by decide), ht, x_put_same, BitVec.add_assoc (a + 4), longOffset_split]
  have hsecond : leads (.blSuffix lo) (put t 15 (x t 15 + 2))
      (jump (put (put t 15 (x t 15 + 2)) 14 ((x (put t 15 (x t 15 + 2)) 15 - 2) ||| 1))
        (x (put t 15 (x t 15 + 2)) 14 + BitVec.ofNat 32 (lo.toNat * 2))) := by
    rw [← longOffsetLow_eq]
    rfl
  rw [hlink, htarget] at hsecond
  refine hsecond.trans (congrArg _ (state_ext (fun r => ?_) rfl))
  simp only [x_jump, x_put, ht]
  split_ifs <;> rfl

/-! ### 49_system_noop.md -/

/-- Settles O30: the stubs' answers are the state itself or the state past the second halfword. -/
theorem stubsDoNothing : Obligations.StubsDoNothing := by
  refine ⟨fun d m imm8 s => ⟨⟨?rorDecodes, rfl⟩, ⟨?svcDecodes, rfl⟩⟩,
    fun r option sysm s => ⟨⟨?mrs, rfl⟩, ⟨?msr, rfl⟩, ⟨?dsb, rfl⟩, ⟨?dmb, rfl⟩, ⟨?isb, rfl⟩⟩⟩
  case rorDecodes => exact f4_of_encode (EncodingRoundTrip.rorReg _ _) rfl (fun _ => rfl) rfl
  case svcDecodes => exact decodesTo_of_encoded rfl (fun _ => rfl) (by rw [layout_imm8]; rfl)
  case mrs => exact decode_of_encode_pair rfl (fun _ => rfl) (by rw [layout_reg_imm8]; rfl)
  case msr => exact decode_of_encode_pair rfl (fun _ => rfl) (by rw [layout_reg, layout_imm8]; rfl)
  case dsb => exact decode_of_encode_pair rfl (fun _ => rfl) (by rw [layout_imm4]; rfl)
  case dmb => exact decode_of_encode_pair rfl (fun _ => rfl) (by rw [layout_imm4]; rfl)
  case isb => exact decode_of_encode_pair rfl (fun _ => rfl) (by rw [layout_imm4]; rfl)

end Sys2Proof.Proofs
end

section
/-! # 20_memory.md: the model's accesses are the rules' (R62, R63, R71, R72), wherever handlers and
transfers do not nest -/

namespace Sys2Proof.Proofs

open Sys2Proof Sys2Proof.Machine Sys2Proof.Claims Sys2Proof.Laws

/-! ### Little-endian values -/

/-- R61: below the shifted rest there is room for a byte. -/
theorem leValue_cons (b : Byte) (bs : List Byte) :
    leValue (b :: bs) = BitVec.ofNat 32 (b.toNat + 2 ^ 8 * (leValue bs).toNat) := by
  have hb := b.isLt
  apply BitVec.eq_of_toNat_eq
  have hdisjoint : b.setWidth 32 &&& leValue bs <<< (8 : Nat) = 0#32 := by
    ext i hi
    by_cases h : i < 8
    · simp [h]
    · simp [BitVec.getLsbD_of_ge b i (by omega), show ¬ i < 8 from h]
  rw [leValue, ← BitVec.add_eq_or_of_and_eq_zero _ _ hdisjoint]
  simp only [BitVec.toNat_add, BitVec.toNat_setWidth, BitVec.toNat_shiftLeft, Nat.shiftLeft_eq,
    BitVec.toNat_ofNat]
  omega

/-- R62: the model's value of consecutive bytes is the rule's sum. -/
theorem leValue_bytesFrom (byteAt : Nat → Byte) (o n : Nat) :
    leValue (bytesFrom byteAt o n) = sumBytes byteAt o n := by
  induction n generalizing o with
  | zero => rfl
  | succ n ih =>
    have hterm (i : Nat) : (byteAt (o + (i + 1))).toNat * 2 ^ (8 * (i + 1)) =
        2 ^ 8 * ((byteAt (o + 1 + i)).toNat * 2 ^ (8 * i)) := by
      rw [Nat.add_right_comm o 1 i, Nat.mul_succ, pow_add]
      ring_nf
    rw [bytesFrom, leValue_cons, ih]
    apply BitVec.eq_of_toNat_eq
    simp only [sumBytes, List.range_succ_eq_map, List.map_cons, List.map_map, List.sum_cons,
      Function.comp_def, Nat.succ_eq_add_one, hterm, List.sum_map_mul_left, BitVec.toNat_ofNat, add_zero,
      mul_zero, pow_zero, mul_one]
    omega

theorem keepLow_zero (w : Width) : keepLow w 0 = 0 := by
  cases w with
  | byte => decide
  | half => decide
  | word => rfl

theorem keepLow_eq_keep (w : Width) (v : Word) : keepLow w v = keep w v := by
  cases w with
  | byte => exact keepLow_byte_eq v
  | half => exact keepLow_half_eq v
  | word =>
    show v = BitVec.ofNat 32 (v.toNat % 2 ^ 32)
    rw [Nat.mod_eq_of_lt v.isLt, BitVec.ofNat_toNat, BitVec.setWidth_eq]

/-! ### Where an access goes -/

theorem region_ne_mmio {a : Word} (h : ¬ inMmio a) : region a ≠ .mmio := fun hr => h (region_eq_mmio.mp hr)

theorem region_of_inMmio {a : Word} (h : inMmio a) : region a = .mmio := region_eq_mmio.mpr h

/-- R62: what a read gives where no handler answers, by region. -/
theorem plainRead_eq_plainAt (s : State) (a : Word) (w : Width) : plainRead s a w = plainAt s a w := by
  unfold plainRead plainAt
  cases hr : region a with
  | rom =>
    have hhi : a.toNat < 0x20000000 := region_eq_rom.mp hr
    rw [if_pos hhi]
    exact leValue_bytesFrom (romAt s) _ _
  | ram =>
    have hlo : 0x20000000 ≤ a.toNat := (region_eq_ram.mp hr).1
    have hhi : a.toNat < 0x40000000 := (region_eq_ram.mp hr).2
    rw [if_neg (not_lt.mpr hlo), if_pos hhi]
    exact leValue_bytesFrom (ramAt s) _ _
  | mmio =>
    have hlo : 0x40000000 ≤ a.toNat := (region_eq_mmio.mp hr).1
    rw [if_neg (by omega), if_neg (by omega)]
  | unmodelled =>
    have hlo : 0x60000000 ≤ a.toNat := region_eq_unmodelled.mp hr
    rw [if_neg (by omega), if_neg (by omega)]

theorem memRead_plainAt {a : Word} (w : Width) (s : State) (h : ¬ inMmio a) :
    memRead a w s = .ok (plainAt s a w, s) := by
  rw [memRead_plain w s (region_ne_mmio h), plainRead_eq_plainAt]

/-- R41: the rule searches the map, the model walks it. -/
theorem heldAt_eq_lookupKey {α : Type} (m : List (Nat × α)) (a : Word) :
    heldAt m a = lookupKey m a.toNat := by
  induction m with
  | nil => rfl
  | cons c cs ih =>
    unfold heldAt at ih ⊢
    unfold lookupKey
    by_cases hc : c.1 = a.toNat
    · simp [hc]
    · simp [hc, ← ih]

/-- Byte `i + 1` of a value is byte `i` of what is left of it. -/
theorem extract_succ_byte (v : Word) (i : Nat) :
    v.extractLsb' (8 * (i + 1)) 8 = (v >>> (8 : Nat)).extractLsb' (8 * i) 8 := by
  ext j hj
  simp only [BitVec.getElem_extractLsb', BitVec.getLsbD_ushiftRight]
  congr 1
  omega

/-- R63: the model stores the bytes one after another, as the rule does. -/
theorem ramWrite_leBytes (ramSize : Nat) (m : Memory) (o n : Nat) (v : Word) :
    ramWrite ramSize m o (leBytes n v) =
      (List.range n).foldl
        (fun m i => if o + i < ramSize then m.set (0x20000000 + o + i) (v.extractLsb' (8 * i) 8) else m)
        m := by
  induction n generalizing m o v with
  | zero => rfl
  | succ n ih =>
    rw [leBytes, ramWrite, ih, List.range_succ_eq_map, List.foldl_cons, List.foldl_map]
    congr 1
    funext m i
    rw [Nat.succ_eq_add_one, extract_succ_byte, Nat.add_assoc o, Nat.add_comm 1 i,
      Nat.add_assoc 0x20000000 (o + 1), Nat.add_assoc o 1 i, Nat.add_comm 1 i, Nat.add_assoc 0x20000000 o]

theorem storeRam_eq (a : Word) (w : Width) (v : Word) (s : State) :
    storeRam a w v s = { s with ram := ramStored s (a.toNat - 0x20000000) (widthBytes w) v } := by
  unfold storeRam ramStored
  rw [ramWrite_leBytes]
  rfl

/-! ### Accesses that reach no handler of the environment -/

/-- The bus answers at least what the rules answer without handlers and triggers. -/
structure Serves (bus : Bus) : Prop where
  read : ∀ {s a w r}, read0 s a w = some r → bus (.read a w) s = .ok r
  write : ∀ {s a w v t}, write0 s a w v = some t → busWrite bus a w v s = .ok t

theorem accessWith_of_read0 (bus : Bus) {s : State} {a : Word} {w : Width} {r : Word × State}
    (h : read0 s a w = some r) : accessWith bus (.read a w) s = .ok r := by
  unfold read0 at h
  split at h
  · rename_i hmmio
    rw [accessWith_read_mmio bus w s (region_of_inMmio hmmio)]
    simp only [heldAt_eq_lookupKey] at h
    split at h
    · rename_i v _ hstub
      cases h
      rw [mmioRead_stub bus hstub, ← keepLow_eq_keep]
      rfl
    · rename_i hstub hheld
      cases h
      rw [mmioRead_dmaStatus bus hstub hheld, ← keepLow_eq_keep]
      rfl
    · cases h
    · rename_i hstub hheld
      cases h
      rw [mmioRead_unmapped bus hstub hheld]
      simp only [Except.map, keepLow_zero]
      rfl
  · rename_i hplain
    cases h
    rw [accessWith_read_plain bus w s (region_ne_mmio hplain), plainRead_eq_plainAt]

theorem accessWith_of_write0 (bus : Bus) {s t : State} {a : Word} {w : Width} {v : Word}
    (h : write0 s a w v = some t) : busWrite (accessWith bus) a w v s = .ok t := by
  unfold busWrite
  unfold write0 at h
  split at h
  · rename_i hrom
    cases h
    rw [accessWith_write_rom bus w v s (region_eq_rom.mpr hrom)]
    rfl
  · rename_i hrom
    split at h
    · rename_i hram
      cases h
      rw [accessWith_write_ram bus w v s (region_eq_ram.mpr ⟨not_lt.mp hrom, hram⟩), ← storeRam_eq]
      rfl
    · rename_i hram
      split at h
      · rename_i hmmio
        rw [accessWith_write_mmio bus w v s (region_of_inMmio ⟨not_lt.mp hram, hmmio⟩)]
        simp only [heldAt_eq_lookupKey, ← keepLow_eq_keep] at h
        split at h
        · rename_i hheld; cases h; rw [mmioWrite_chid bus _ hheld]; rfl
        · rename_i hheld; cases h; rw [mmioWrite_base bus _ hheld]; rfl
        · cases h
        · cases h
        · rename_i hheld; cases h; rw [mmioWrite_unmapped bus _ hheld]; rfl
      · rename_i hmmio
        cases h
        rw [accessWith_write_unmodelled bus w v s (region_eq_unmodelled.mpr (not_lt.mp hmmio))]
        rfl

theorem serves_accessWith (bus : Bus) : Serves (accessWith bus) :=
  ⟨accessWith_of_read0 bus, accessWith_of_write0 bus⟩

/-! ### Handlers and transfers -/

section
variable {bus : Bus} {s t : State}

theorem runCall_of_call0 (hb : Serves bus) {c : EnvCall} (h : call0 s c = some t) :
    runCall bus s c = .ok t := by
  cases c with
  | read a w =>
    obtain ⟨r, hr, rfl⟩ := Option.map_eq_some_iff.mp h
    show (bus (.read a w) s).map Prod.snd = _
    rw [hb.read hr]
    rfl
  | write a w v => exact hb.write h
  | signalDma => cases h; rfl
  | setReg r v => cases h; rfl
  | setFlag f b => cases f <;> (cases h; rfl)

theorem runCalls_of_call0 (hb : Serves bus) {cs : List EnvCall} (h : cs.foldlM call0 s = some t) :
    runCalls bus cs s = .ok t := by
  induction cs generalizing s with
  | nil => cases h; rfl
  | cons c cs ih =>
    rw [List.foldlM_cons] at h
    obtain ⟨u, hu, h⟩ := Option.bind_eq_some_iff.mp h
    rw [runCalls, runCall_of_call0 hb hu]
    exact ih h

/-- R74: the next entry of the environment, taken off. -/
theorem nextReply_cons {r : EnvReply} {rest : List EnvReply} (henv : s.env = r :: rest) :
    nextReply s = (r, { s with env := rest }) := by
  simp only [nextReply, henv]

/-- Beyond the entries: no calls, a free answer (log entry 6). -/
theorem nextReply_nil (henv : s.env = []) :
    nextReply s = (⟨[], Config.envAnswer s.envCount⟩, { s with envCount := s.envCount + 1 }) := by
  simp only [nextReply, henv]

theorem handled_cons {r : EnvReply} {rest : List EnvReply} (henv : s.env = r :: rest) :
    handled s = (r.calls.foldlM call0 { s with env := rest }).map fun t => (r.answer, t) := by
  simp only [handled, henv]

theorem handled_nil (henv : s.env = []) :
    handled s = some (Config.envAnswer s.envCount, { s with envCount := s.envCount + 1 }) := by
  simp only [handled, henv]

theorem runHandler_of_handled (hb : Serves bus) {r : Word × State} (h : handled s = some r) :
    runHandler bus s = .ok r := by
  cases henv : s.env with
  | cons reply rest =>
    rw [handled_cons henv] at h
    obtain ⟨t, ht, rfl⟩ := Option.map_eq_some_iff.mp h
    rw [runHandler, nextReply_cons henv, runCalls_of_call0 hb ht, Except.map]
  | nil =>
    rw [handled_nil henv] at h
    rw [runHandler, nextReply_nil henv, runCalls, Except.map, Option.some.inj h]

/-- R394: the rule numbers the beats, the model counts the addresses up. -/
theorem copyBytes_of_beats (hb : Serves bus) {n : Nat} {src dst : Word}
    (h : (List.range n).foldlM (beat src dst) s = some t) : copyBytes bus n src dst s = .ok t := by
  induction n generalizing src dst s with
  | zero => cases h; rfl
  | succ n ih =>
    have hnext : (fun u i => beat src dst u (i + 1)) = beat (src + 1) (dst + 1) := by
      funext u i
      have hshift (a : Word) : a + BitVec.ofNat 32 (i + 1) = a + 1 + BitVec.ofNat 32 i := by
        rw [Nat.add_comm, BitVec.ofNat_add, ← BitVec.add_assoc]
        rfl
      rw [beat, beat, hshift, hshift]
    rw [List.range_succ_eq_map, List.foldlM_cons] at h
    obtain ⟨u, hu, h⟩ := Option.bind_eq_some_iff.mp h
    rw [List.foldlM_map] at h
    obtain ⟨r, hr, hu⟩ := Option.bind_eq_some_iff.mp hu
    rw [BitVec.add_zero] at hr hu
    unfold copyBytes busRead
    rw [hb.read hr]
    show (busWrite bus dst .byte r.1 r.2).bind _ = _
    rw [hb.write hu]
    exact ih (hnext ▸ h)

/-- R393: where no chain is under way the descriptor is the channel's. -/
theorem descAddr_eq_descriptor (s : State) : descAddr s = descriptor s := by
  unfold descAddr descriptor
  by_cases h : s.dmaCurDesc = 0
  · rw [if_pos h, if_neg (not_not.mpr h), BitVec.ofNat_add, BitVec.ofNat_mul]
    simp only [BitVec.ofNat_toNat, BitVec.setWidth_eq]
  · rw [if_neg h, if_pos h]

theorem dmaTransfer_of_transferred (hb : Serves bus) (h : transferred s = some t) :
    dmaTransfer bus s = .ok t := by
  obtain ⟨count, h1, h⟩ := Option.bind_eq_some_iff.mp h
  obtain ⟨src, h2, h⟩ := Option.bind_eq_some_iff.mp h
  obtain ⟨dst, h3, h⟩ := Option.bind_eq_some_iff.mp h
  obtain ⟨next, h4, h⟩ := Option.bind_eq_some_iff.mp h
  obtain ⟨u, h5, rfl⟩ := Option.map_eq_some_iff.mp h
  simp only [dmaTransfer, descAddr_eq_descriptor, busRead, hb.read h1, hb.read h2, hb.read h3, hb.read h4,
    Except.bind, copyBytes_of_beats hb h5]
  rfl

end

theorem serves_access : Serves (access 65535) := serves_accessWith (access 65534)

theorem memRead_of_readOf {s : State} {a : Word} {w : Width} {r : Word × State}
    (h : readOf s a w = some r) : memRead a w s = .ok r := by
  unfold readOf at h
  split at h
  · rename_i henv
    obtain ⟨hlo, hhi, hstub, hheld⟩ := henv
    rw [heldAt_eq_lookupKey] at hstub hheld
    obtain ⟨y, hy, rfl⟩ := Option.map_eq_some_iff.mp h
    have hrun : runHandler (access 65535) (s.emit (.handlerRead a)) = .ok y :=
      runHandler_of_handled serves_access hy
    rw [memRead_mmio w s (region_of_inMmio ⟨hlo, hhi⟩), mmioRead_env _ hstub hheld, hrun,
      ← keepLow_eq_keep]
    rfl
  · exact accessWith_of_read0 (access 65535) h

theorem memWrite_of_writeOf {s t : State} {a : Word} {w : Width} {v : Word}
    (h : writeOf s a w v = some t) : memWrite a w v s = .ok t := by
  unfold writeOf at h
  split at h
  · rename_i henv
    obtain ⟨hlo, hhi, hheld⟩ := henv
    rw [heldAt_eq_lookupKey] at hheld
    obtain ⟨y, hy, rfl⟩ := Option.map_eq_some_iff.mp h
    rw [← keepLow_eq_keep] at hy
    have hrun : runHandler (access 65535) (s.emit (.handlerWrite a (keepLow w v))) = .ok y :=
      runHandler_of_handled serves_access hy
    rw [memWrite_mmio w v s (region_of_inMmio ⟨hlo, hhi⟩), mmioWrite_env _ _ hheld, hrun]
    rfl
  · split at h
    · rename_i htrigger
      obtain ⟨hlo, hhi, hheld⟩ := htrigger
      rw [heldAt_eq_lookupKey] at hheld
      rw [memWrite_mmio w v s (region_of_inMmio ⟨hlo, hhi⟩), mmioWrite_trigger _ _ hheld,
        dmaTransfer_of_transferred serves_access h]
    · exact accessWith_of_write0 (access 65535) h

/-- Settles O12: outside MMIO by region, elsewhere by what the address holds. -/
theorem memReadFollowsRule : Obligations.MemReadFollowsRule :=
  fun s _ w => ⟨memRead_plainAt w s, fun _ _ => memRead_of_readOf⟩

/-- Settles O13: a store by region, in MMIO by what the address holds. -/
theorem memWriteFollowsRule : Obligations.MemWriteFollowsRule :=
  fun _ _ _ _ _ => memWrite_of_writeOf

/-! ### 60_exceptions.md section 7: the registers of the sequencer -/

/-- Settles O37: each is a case of an MMIO access. -/
theorem dmaRegistersFollowRules : Obligations.DmaRegistersFollowRules := by
  intro s a v w hmmio
  have hregion := region_of_inMmio hmmio
  simp only [heldAt_eq_lookupKey, ← keepLow_eq_keep]
  refine ⟨fun hheld => ?chid, fun hheld => ?base, fun hheld t ht => ?trigger, fun hstub hheld => ?status,
    fun hstub hheld => ?unmapped⟩
  case chid => rw [memWrite_mmio w v s hregion, mmioWrite_chid _ _ hheld]
  case base => rw [memWrite_mmio w v s hregion, mmioWrite_base _ _ hheld]
  case trigger =>
    rw [memWrite_mmio w v s hregion, mmioWrite_trigger _ _ hheld,
      dmaTransfer_of_transferred serves_access ht]
  case status =>
    rw [memRead_mmio w s hregion, mmioRead_dmaStatus _ hstub hheld]
    rfl
  case unmapped =>
    rw [memRead_mmio w s hregion, mmioRead_unmapped _ hstub hheld]
    simp only [Except.map, keepLow_zero]
    rfl

/-- Whatever the bound, a transfer onto its own trigger reaches it again before it ends. -/
theorem access_trigger_hangs {s : State} {trigger src : Word}
    (hmmio : inMmio trigger) (hheld : heldAt s.writeHandlers trigger = some .dmaTrigger)
    (hcnt : ¬ inMmio (descriptor s + s.cfg.dmaCntOff))
    (hcount : plainAt s (descriptor s + s.cfg.dmaCntOff) s.cfg.dmaCntWidth ≠ 0)
    (hsrcOff : ¬ inMmio (descriptor s + s.cfg.dmaSrcOff))
    (hsrc : plainAt s (descriptor s + s.cfg.dmaSrcOff) .word = src) (hplain : ¬ inMmio src)
    (hdstOff : ¬ inMmio (descriptor s + s.cfg.dmaDstOff))
    (hdst : plainAt s (descriptor s + s.cfg.dmaDstOff) .word = trigger)
    (hnextOff : ¬ inMmio (descriptor s + s.cfg.dmaNextOff)) (n : Nat) (w : Width) (v : Word) :
    access n (.write trigger w v) s = .error .accessHang := by
  rw [heldAt_eq_lookupKey] at hheld
  induction n generalizing w v with
  | zero => rfl
  | succ n ih =>
    rw [access_succ, accessWith_write_mmio _ _ _ _ (region_of_inMmio hmmio), mmioWrite_trigger _ _ hheld]
    cases n with
    | zero => rfl
    | succ n =>
      have read {a : Word} {w : Width} {r : Word} (h : ¬ inMmio a) (hr : plainAt s a w = r) :
          busRead (access (n + 1)) a w s = .ok (r, s) := by
        rw [← hr, ← plainRead_eq_plainAt]
        exact accessWith_read_plain _ w s (region_ne_mmio h)
      obtain ⟨k, hk⟩ := Nat.exists_eq_add_one_of_ne_zero fun h => hcount (BitVec.eq_of_toNat_eq h)
      simp only [dmaTransfer, descAddr_eq_descriptor, read hcnt rfl, read hsrcOff hsrc, read hdstOff hdst,
        read hnextOff rfl, Except.bind, hk, copyBytes, read hplain rfl, busWrite, ih, Except.map]

/-- Settles O39: also the bound of the machine is such a bound. -/
theorem selfTriggeringTransferHangs : Obligations.SelfTriggeringTransferHangs := by
  intro s trigger v w src d hmmio hheld hcnt hcount hsrcOff hsrc hplain hdstOff hdst hnextOff
  unfold memWrite busWrite
  rw [access_trigger_hangs hmmio hheld hcnt hcount hsrcOff hsrc hplain hdstOff hdst hnextOff]
  rfl

end Sys2Proof.Proofs
end

section
/-! # 20_memory.md and 45_load_store.md, byte by byte: loads, stores and the transfers of the DMA -/

namespace Sys2Proof.Proofs

open Sys2Proof Sys2Proof.Machine Sys2Proof.Claims Sys2Proof.Laws

/-! ### What one byte reads as -/

theorem leValue_singleton (b : Byte) : leValue [b] = b.setWidth 32 := by
  simp [leValue]

theorem setWidth_leValue_singleton (b : Byte) : (leValue [b]).setWidth 8 = b := by
  simp [leValue]

theorem peek_rom (s : State) {a : Word} (h : a.toNat < 0x20000000) : peek s a = romAt s a.toNat := by
  unfold peek plainRead
  rw [region_eq_rom.mpr h]
  exact setWidth_leValue_singleton _

theorem peek_ram (s : State) {a : Word} (h : inRam a) : peek s a = ramAt s (a.toNat - 0x20000000) := by
  unfold peek plainRead
  rw [region_eq_ram.mpr h]
  exact setWidth_leValue_singleton _

theorem ramAt_eq (s : State) (o : Nat) :
    ramAt s o = if o < s.cfg.ramSize then s.ram.get (ramBase + o) else 0 := by
  rw [ramAt, ramBase]

/-- Outside RAM a byte does not depend on RAM. -/
theorem peek_ram_update (s : State) (m : Memory) {a : Word} (h : ¬ inRam a) :
    peek { s with ram := m } a = peek s a := by
  unfold peek plainRead
  cases hr : region a with
  | ram => exact absurd (region_eq_ram.mp hr) h
  | rom => rfl
  | mmio => rfl
  | unmodelled => rfl

/-- A byte depends on the configuration and the two memories alone. -/
theorem peek_congr {s u : State} {a : Word} (hcfg : s.cfg = u.cfg) (hrom : s.rom = u.rom)
    (hram : s.ram = u.ram) : peek s a = peek u a := by
  unfold peek plainRead romByte ramByte
  rw [hcfg, hrom, hram]

/-! ### What a store leaves -/

theorem leBytes_getElem? (n : Nat) (v : Word) (i : Nat) :
    (leBytes n v)[i]? = if i < n then some (v.extractLsb' (8 * i) 8) else none := by
  induction n generalizing v i with
  | zero => rfl
  | succ n ih =>
    cases i with
    | zero => simp [leBytes, BitVec.setWidth_eq_extractLsb']
    | succ i => simp [leBytes, ih, extract_succ_byte]

/-- R63, R66: the bytes inside the access and inside the array are those of the value. -/
theorem peek_storeRam {s : State} (wf : Memory.wf s.ram) {a : Word} (ha : inRam a) (w : Width) (v b : Word) :
    peek (storeRam a w v s) b =
      if within a (widthBytes w) b ∧ inRam b ∧ b.toNat < 0x20000000 + s.cfg.ramSize then
        v.extractLsb' (8 * (b.toNat - a.toNat)) 8
      else peek s b := by
  by_cases hb : inRam b
  · obtain ⟨haLow, -⟩ := ha
    obtain ⟨hbLow, -⟩ := id hb
    rw [peek_ram _ hb, peek_ram _ hb, ramAt_eq, ramAt_eq, storeRam_cfg]
    unfold storeRam
    by_cases hin : b.toNat - 0x20000000 < s.cfg.ramSize
    · rw [if_pos hin, if_pos hin, ramWrite_get wf, leBytes_getElem?, ramBase]
      by_cases hwithin : within a (widthBytes w) b
      · obtain ⟨hle, hlt⟩ := id hwithin
        rw [if_pos (by omega), if_pos (by omega), if_pos ⟨hwithin, hb, by omega⟩, Option.getD_some,
          show b.toNat - 0x20000000 - (a.toNat - 0x20000000) = b.toNat - a.toNat by omega]
      · rw [if_neg (c := within a (widthBytes w) b ∧ _) fun h => hwithin h.1]
        by_cases hle : a.toNat ≤ b.toNat
        · rw [if_pos (by omega), if_neg (by omega)]
          rfl
        · rw [if_neg (by omega)]
    · rw [if_neg hin, if_neg hin, if_neg (by omega)]
  · rw [if_neg fun h => hb h.2.1]
    exact peek_ram_update s _ hb

theorem storeRam_wf {s : State} (wf : Memory.wf s.ram) (a : Word) (w : Width) (v : Word) :
    Memory.wf (storeRam a w v s).ram := ramWrite_wf _ wf _ _

/-! ### What a load gives, from the bytes -/

/-- The base-256 digits of a number make it up again. -/
theorem sum_bytes (x n : Nat) :
    ((List.range n).map fun i => x / 2 ^ (8 * i) % 2 ^ 8 * 2 ^ (8 * i)).sum = x % 2 ^ (8 * n) := by
  induction n with
  | zero => simp [Nat.mod_one]
  | succ n ih =>
    rw [List.range_succ, List.map_append, List.sum_append, ih, List.map_singleton, List.sum_singleton,
      Nat.mul_succ, pow_add, Nat.mod_mul, Nat.mul_comm (_ % _)]

theorem sumBytes_eq_keep {byteAt : Nat → Byte} {o : Nat} {w : Width} {v : Word}
    (h : ∀ i < widthBytes w, byteAt (o + i) = v.extractLsb' (8 * i) 8) :
    sumBytes byteAt o (widthBytes w) = keep w v := by
  rw [sumBytes, keep, ← sum_bytes]
  congr 2
  refine List.map_congr_left fun i hi => ?_
  rw [h i (List.mem_range.mp hi), BitVec.extractLsb'_toNat, Nat.shiftRight_eq_div_pow]
/-- R62: a value whose bytes all lie in RAM reads as those bytes. -/
theorem plainAt_of_bytes {s : State} {a v : Word} {w : Width} (hlo : 0x20000000 ≤ a.toNat)
    (hhi : a.toNat + widthBytes w ≤ 0x40000000)
    (h : ∀ b, within a (widthBytes w) b → peek s b = v.extractLsb' (8 * (b.toNat - a.toNat)) 8) :
    plainAt s a w = keep w v := by
  have hpos : 0 < widthBytes w := by cases w <;> decide
  unfold plainAt
  rw [if_neg (by omega), if_pos (by omega)]
  refine sumBytes_eq_keep fun i hi => ?_
  have hb : (BitVec.ofNat 32 (a.toNat + i)).toNat = a.toNat + i := by
    rw [BitVec.toNat_ofNat]
    omega
  have hbyte := h (BitVec.ofNat 32 (a.toNat + i)) ⟨by omega, by omega⟩
  rw [peek_ram s ⟨by omega, by omega⟩, hb] at hbyte
  rw [show a.toNat - 0x20000000 + i = a.toNat + i - 0x20000000 by omega, hbyte]
  congr 2
  omega

theorem keep_word (v : Word) : keep .word v = v := (keepLow_eq_keep .word v).symm

theorem not_inMmio_of_inRam {a : Word} (h : inRam a) : ¬ inMmio a := fun hm => absurd h.2 (not_lt.mpr hm.1)

/-- A word whose bytes all lie in RAM is read without effect. -/
theorem memRead_of_bytes {s : State} {a v : Word} (hlo : 0x20000000 ≤ a.toNat) (hhi : a.toNat + 4 ≤ 0x40000000)
    (h : ∀ b, within a 4 b → peek s b = v.extractLsb' (8 * (b.toNat - a.toNat)) 8) :
    memRead a .word s = .ok (v, s) := by
  rw [memRead_plainAt .word s (not_inMmio_of_inRam ⟨hlo, by omega⟩),
    plainAt_of_bytes (w := .word) hlo hhi h, keep_word]

/-! ### A word and its parts -/

/-- The part of a word from bit `8 * j` on, as `MemRead` gives it. -/
theorem keep_shifted (w : Width) (v : Word) (j : Nat) :
    keep w (v >>> (8 * j)) = (v.extractLsb' (8 * j) (8 * widthBytes w)).setWidth 32 := by
  apply BitVec.eq_of_toNat_eq
  rw [keep, BitVec.toNat_ofNat, BitVec.toNat_ushiftRight, BitVec.toNat_setWidth, BitVec.extractLsb'_toNat]

theorem extract_shifted_byte (v : Word) (i j : Nat) :
    (v >>> (8 * j)).extractLsb' (8 * i) 8 = v.extractLsb' (8 * (j + i)) 8 := by
  ext k hk
  simp only [BitVec.getElem_extractLsb', BitVec.getLsbD_ushiftRight]
  congr 1
  omega

theorem toNat_add_ofNat {a : Word} {n : Nat} (h : a.toNat + n < 2 ^ 32) :
    (a + BitVec.ofNat 32 n).toNat = a.toNat + n := by
  rw [BitVec.toNat_add, BitVec.toNat_ofNat]
  omega

/-- After a word is stored in RAM, every part of it reads back. -/
theorem memRead_part_of_stored {s : State} {a v : Word} (wf : Memory.wf s.ram) (hin : ramHolds s a 4)
    (w : Width) {j : Nat} (hj : j + widthBytes w ≤ 4) :
    memRead (a + BitVec.ofNat 32 j) w (storeRam a .word v s) =
      .ok ((v.extractLsb' (8 * j) (8 * widthBytes w)).setWidth 32, storeRam a .word v s) := by
  obtain ⟨hlo, hsize, hhi⟩ := hin
  have hpos : 0 < widthBytes w := by cases w <;> decide
  have haddr : (a + BitVec.ofNat 32 j).toNat = a.toNat + j := toNat_add_ofNat (by omega)
  rw [memRead_plainAt _ _ (not_inMmio_of_inRam ⟨by omega, by omega⟩),
    plainAt_of_bytes (v := v >>> (8 * j)) (by omega) (by omega) fun b hb => ?bytes, keep_shifted]
  case bytes =>
    obtain ⟨hle, hlt⟩ := hb
    have hwithin : within a (widthBytes .word) b := ⟨by omega, by rw [widthBytes]; omega⟩
    rw [peek_storeRam wf ⟨hlo, by omega⟩,
      if_pos ⟨hwithin, ⟨by omega, by omega⟩, by omega⟩, extract_shifted_byte]
    congr 2
    omega

/-- Settles O14: the write is a store in RAM; every read is of a part of the word. -/
theorem ramReadsBackWhatWasWritten : Obligations.RamReadsBackWhatWasWritten := by
  intro s a v wf hin
  have part (w : Width) (j : Nat) := memRead_part_of_stored (v := v) (j := j) wf hin w
  have whole := part .word 0 (by decide)
  have lowHalf := part .half 0 (by decide)
  have lowByte := part .byte 0 (by decide)
  rw [BitVec.add_zero] at whole lowHalf lowByte
  obtain ⟨hlo, -, hhi⟩ := hin
  refine ⟨storeRam a .word v s, memWrite_ram _ _ _ (region_eq_ram.mpr ⟨hlo, ?_⟩), ?_, lowHalf,
    part .half 2 (by decide), lowByte, part .byte 1 (by decide), part .byte 2 (by decide),
    part .byte 3 (by decide)⟩
  · show a.toNat < 0x40000000
    omega
  · rw [whole]
    congr 2
    simp [widthBytes]

/-! ### 45_load_store.md -/

/-- R267, R268: a load is the shared one, at the rule's address and with the rule's extension. -/
theorem loads_of_loadInto {i : Instr} {s : State} {t : Reg} {a ea : Word} {w : Width}
    {extend : Word → Word} (runs : exec i s = loadInto a w extend t s) (address : a = ea) :
    loads i s t ea w extend := by
  subst address
  have read {v : Word} {s' : State} (h : memRead a w s = .ok (v, s')) : leads i s (put s' t (extend v)) := by
    rw [leads, runs, loadInto, h]
    rfl
  exact ⟨fun hplain => read (memRead_plainAt w s hplain), fun v s' => read⟩

/-- Settles O16: every load is the shared one, and its halfword is of format F1, F2 or F3. -/
theorem loadsFollowRules : Obligations.LoadsFollowRules := by
  refine fun s => ⟨fun t imm8 => ⟨⟨?litDecodes, loads_of_loadInto rfl ?litAddress⟩,
      ⟨?spDecodes, loads_of_loadInto rfl ?spAddress⟩⟩,
    fun t n m => ⟨⟨?sbDecodes, loads_of_loadInto rfl rfl⟩, ⟨?wordDecodes, loads_of_loadInto rfl rfl⟩,
      ⟨?halfDecodes, loads_of_loadInto rfl rfl⟩, ⟨?byteDecodes, loads_of_loadInto rfl rfl⟩,
      ⟨?shDecodes, loads_of_loadInto rfl rfl⟩⟩,
    fun t n imm5 => ⟨⟨?wordImmDecodes, loads_of_loadInto rfl ?wordImmAddress⟩,
      ⟨?byteImmDecodes, loads_of_loadInto rfl ?byteImmAddress⟩,
      ⟨?halfImmDecodes, loads_of_loadInto rfl ?halfImmAddress⟩⟩⟩
  case litDecodes => exact decodesTo_F3 (EncodingRoundTrip.ldrLit _ _) rfl (fun _ => rfl) rfl
  case litAddress => rw [← immTimes4_eq]; rfl
  case spDecodes => exact decodesTo_F3 (EncodingRoundTrip.ldrSp _ _) rfl (fun _ => rfl) rfl
  case spAddress => rw [← immTimes4_eq]; rfl
  case sbDecodes =>
    exact decodesTo_F2 (fields := [t, n, m]) (EncodingRoundTrip.ldrsbReg _ _ _) rfl (fun _ => rfl) rfl
  case wordDecodes =>
    exact decodesTo_F2 (fields := [t, n, m]) (EncodingRoundTrip.ldrReg _ _ _) rfl (fun _ => rfl) rfl
  case halfDecodes =>
    exact decodesTo_F2 (fields := [t, n, m]) (EncodingRoundTrip.ldrhReg _ _ _) rfl (fun _ => rfl) rfl
  case byteDecodes =>
    exact decodesTo_F2 (fields := [t, n, m]) (EncodingRoundTrip.ldrbReg _ _ _) rfl (fun _ => rfl) rfl
  case shDecodes =>
    exact decodesTo_F2 (fields := [t, n, m]) (EncodingRoundTrip.ldrshReg _ _ _) rfl (fun _ => rfl) rfl
  case wordImmDecodes => exact decodesTo_F1 (EncodingRoundTrip.ldrImm5 _ _ _) rfl (fun _ => rfl) rfl
  case wordImmAddress => rw [← immTimes4_eq]; rfl
  case byteImmDecodes => exact decodesTo_F1 (EncodingRoundTrip.ldrbImm5 _ _ _) rfl (fun _ => rfl) rfl
  case byteImmAddress => rw [← immZext_eq]; rfl
  case halfImmDecodes => exact decodesTo_F1 (EncodingRoundTrip.ldrhImm5 _ _ _) rfl (fun _ => rfl) rfl
  case halfImmAddress => rw [← immTimes2_eq]; rfl

/-- R267, R268: a store is the shared one. Outside MMIO only one to RAM changes a byte, and only one to
ROM is reported. -/
theorem stores_of_storeFrom {i : Instr} {s : State} {ea : Word} {w : Width} {v : Word}
    (runs : exec i s = storeFrom ea w v s) : stores i s ea w v := by
  have written {s' : State} (h : memWrite ea w v s = .ok s') : leads i s s' := by
    rw [leads, runs, storeFrom, h]
    rfl
  refine ⟨fun s' => written, fun hplain wf => ?_⟩
  cases hr : region ea with
  | rom =>
    have hhi : ea.toNat < 0x20000000 := region_eq_rom.mp hr
    refine ⟨s.ram, ?_, fun a => (if_neg fun h => absurd h.1.1 (not_le.mpr hhi)).symm⟩
    rw [romTrace, if_pos hhi]
    exact written (memWrite_rom w v s hr)
  | ram =>
    have hin : inRam ea := region_eq_ram.mp hr
    refine ⟨(storeRam ea w v s).ram, ?_, fun a => ?_⟩
    · rw [romTrace, if_neg (not_lt.mpr hin.1)]
      exact written (memWrite_ram w v s hr)
    · refine (peek_storeRam wf hin w v a).trans ?_
      exact if_congr (and_iff_right hin).symm rfl rfl
  | mmio => exact absurd (region_eq_mmio.mp hr) hplain
  | unmodelled =>
    have hlo : 0x60000000 ≤ ea.toNat := region_eq_unmodelled.mp hr
    refine ⟨s.ram, ?_, fun a => (if_neg fun h => absurd h.1.2 (by omega)).symm⟩
    rw [romTrace, if_neg (by omega)]
    exact written (memWrite_unmodelled w v s hr)

/-- Settles O17: every store is the shared one, and its halfword is of format F1, F2 or F3. -/
theorem storesFollowRules : Obligations.StoresFollowRules := by
  refine fun s => ⟨fun t n m => ⟨⟨?wordDecodes, stores_of_storeFrom rfl⟩,
      ⟨?halfDecodes, stores_of_storeFrom rfl⟩, ⟨?byteDecodes, stores_of_storeFrom rfl⟩⟩,
    fun t n imm5 => ⟨⟨?wordImmDecodes, stores_of_storeFrom rfl⟩,
      ⟨?byteImmDecodes, stores_of_storeFrom rfl⟩, ⟨?halfImmDecodes, stores_of_storeFrom rfl⟩⟩,
    fun t imm8 => ⟨?spDecodes, stores_of_storeFrom rfl⟩,
    fun imm5 => ⟨immTimes4_eq imm5, immTimes2_eq imm5, immZext_eq imm5⟩, immTimes4_eq⟩
  case wordDecodes =>
    exact decodesTo_F2 (fields := [t, n, m]) (EncodingRoundTrip.strReg _ _ _) rfl (fun _ => rfl) rfl
  case halfDecodes =>
    exact decodesTo_F2 (fields := [t, n, m]) (EncodingRoundTrip.strhReg _ _ _) rfl (fun _ => rfl) rfl
  case byteDecodes =>
    exact decodesTo_F2 (fields := [t, n, m]) (EncodingRoundTrip.strbReg _ _ _) rfl (fun _ => rfl) rfl
  case wordImmDecodes => exact decodesTo_F1 (EncodingRoundTrip.strImm5 _ _ _) rfl (fun _ => rfl) rfl
  case byteImmDecodes => exact decodesTo_F1 (EncodingRoundTrip.strbImm5 _ _ _) rfl (fun _ => rfl) rfl
  case halfImmDecodes => exact decodesTo_F1 (EncodingRoundTrip.strhImm5 _ _ _) rfl (fun _ => rfl) rfl
  case spDecodes => exact decodesTo_F3 (EncodingRoundTrip.strSp _ _) rfl (fun _ => rfl) rfl

/-! ### 60_exceptions.md section 7: the byte loop of a transfer into RAM -/

theorem plainRead_byte (s : State) (a : Word) : plainRead s a .byte = (peek s a).setWidth 32 := by
  unfold peek plainRead
  cases region a with
  | rom => exact (leValue_singleton _).trans (congrArg _ (setWidth_leValue_singleton _).symm)
  | ram => exact (leValue_singleton _).trans (congrArg _ (setWidth_leValue_singleton _).symm)
  | mmio => rfl
  | unmodelled => rfl

/-- A nested read of one byte below MMIO. -/
theorem busRead_byte (bus : Bus) (s : State) {a : Word} (h : a.toNat < 0x40000000) :
    busRead (accessWith bus) a .byte s = .ok ((peek s a).setWidth 32, s) := by
  have hplain : region a ≠ .mmio := region_ne_mmio fun hm => absurd h (not_lt.mpr hm.1)
  unfold busRead
  rw [accessWith_read_plain bus .byte s hplain, plainRead_byte]

/-- A nested write of one byte of RAM. -/
theorem busWrite_byte (bus : Bus) {s : State} (wf : Memory.wf s.ram) {a : Word} (ha : ramHolds s a 1)
    (b : Byte) :
    ∃ m, busWrite (accessWith bus) a .byte (b.setWidth 32) s = .ok { s with ram := m } ∧ Memory.wf m ∧
      ∀ c, peek { s with ram := m } c = if c = a then b else peek s c := by
  obtain ⟨hlo, hsize, hhi⟩ := ha
  have hin : inRam a := ⟨hlo, by omega⟩
  refine ⟨(storeRam a .byte (b.setWidth 32) s).ram, ?_, storeRam_wf wf _ _ _, fun c => ?_⟩
  · unfold busWrite
    rw [accessWith_write_ram bus _ _ s (region_eq_ram.mpr hin)]
    rfl
  · refine (peek_storeRam wf hin .byte (b.setWidth 32) c).trans ?_
    rw [widthBytes]
    by_cases hc : c = a
    · subst hc
      rw [if_pos ⟨by omega, by omega, by omega⟩, if_pos rfl, Nat.sub_self, Nat.mul_zero,
        ← BitVec.setWidth_eq_extractLsb' (by decide)]
      simp
    · have hne : c.toNat ≠ a.toNat := fun h => hc (BitVec.eq_of_toNat_eq h)
      rw [if_neg hc, if_neg (by omega)]

/-- One more byte, then the rest: what the whole loop copies. -/
theorem copied_step {s u : State} {src dst : Word} {n : Nat} (hsrc : src.toNat + (n + 1) ≤ 0x40000000)
    (hdst : dst.toNat + (n + 1) ≤ 0x40000000)
    (hapart : src.toNat + (n + 1) ≤ dst.toNat ∨ dst.toNat + (n + 1) ≤ src.toNat)
    (hu : ∀ a, peek u a = if a = dst then peek s src else peek s a) (a : Word) :
    (if within (dst + 1) n a then peek u (src + 1 + (a - (dst + 1))) else peek u a) =
      if within dst (n + 1) a then peek s (src + (a - dst)) else peek s a := by
  have hdst' : (dst + 1).toNat = dst.toNat + 1 := toNat_add_ofNat (n := 1) (by omega)
  unfold within
  rw [hdst']
  by_cases hin : dst.toNat + 1 ≤ a.toNat ∧ a.toNat < dst.toNat + 1 + n
  · have haddr : src + 1 + (a - (dst + 1)) = src + (a - dst) := by bv_omega
    have hne : src + (a - dst) ≠ dst := by bv_omega
    rw [if_pos hin, if_pos ⟨by omega, by omega⟩, haddr, hu, if_neg hne]
  · rw [if_neg hin, hu]
    by_cases hfirst : a = dst
    · subst hfirst
      rw [if_pos rfl, if_pos ⟨by omega, by omega⟩, BitVec.sub_self, BitVec.add_zero]
    · have hne : a.toNat ≠ dst.toNat := fun h => hfirst (BitVec.eq_of_toNat_eq h)
      rw [if_neg hfirst, if_neg (by omega)]

/-- R394: the first of the bytes to copy. -/
theorem copyBytes_first {bus : Bus} (n : Nat) {s u : State} {src dst v : Word}
    (hread : busRead bus src .byte s = .ok (v, s)) (hwrite : busWrite bus dst .byte v s = .ok u) :
    copyBytes bus (n + 1) src dst s = copyBytes bus n (src + 1) (dst + 1) u := by
  simp only [copyBytes, hread, hwrite, Except.bind]

/-- R394, by induction on the bytes still to copy: the ranges being apart, no byte still to be read has
been written. -/
theorem copyBytes_into_ram (bus : Bus) {n : Nat} {s : State} {src dst : Word} (wf : Memory.wf s.ram)
    (hdst : ramHolds s dst n) (hsrc : src.toNat + n ≤ 0x40000000)
    (hapart : src.toNat + n ≤ dst.toNat ∨ dst.toNat + n ≤ src.toNat) :
    ∃ m, copyBytes (accessWith bus) n src dst s = .ok { s with ram := m } ∧
      ∀ a, peek { s with ram := m } a =
        if within dst n a then peek s (src + (a - dst)) else peek s a := by
  induction n generalizing s src dst with
  | zero => exact ⟨s.ram, rfl, fun a => (if_neg (by omega)).symm⟩
  | succ n ih =>
    obtain ⟨hlo, hsize, hhi⟩ := hdst
    have hsrc' : (src + 1).toNat = src.toNat + 1 := toNat_add_ofNat (n := 1) (by omega)
    have hdst' : (dst + 1).toNat = dst.toNat + 1 := toNat_add_ofNat (n := 1) (by omega)
    obtain ⟨m₁, hwrite, hwf, hpeek⟩ := busWrite_byte bus wf (a := dst) ⟨hlo, by omega, by omega⟩ (peek s src)
    obtain ⟨m, hcopy, hbytes⟩ := ih (s := { s with ram := m₁ }) (src := src + 1) (dst := dst + 1) hwf
      ⟨by omega, by show _ ≤ _ + s.cfg.ramSize; omega, by omega⟩ (by omega) (by omega)
    have hfirst := copyBytes_first n (busRead_byte bus s (a := src) (by omega)) hwrite
    exact ⟨m, hfirst.trans hcopy, fun a => (hbytes a).trans (copied_step hsrc hhi hapart hpeek a)⟩

/-- Settles O38: the four reads of the descriptor leave the state, the byte loop leaves RAM changed. -/
theorem dmaTransferCopiesBytes : Obligations.DmaTransferCopiesBytes := by
  intro s trigger v w count src dst next d hmmio hheld wf hcnt hcount hsrcOff hsrc hdstOff hdst hnextOff
    hnext hin hbelow hapart
  obtain ⟨m, hcopy, hbytes⟩ := copyBytes_into_ram (access 65534) wf hin hbelow hapart
  have read {a : Word} {w : Width} {r : Word} (h : ¬ inMmio a) (hr : plainAt s a w = r) :
      busRead (access 65535) a w s = .ok (r, s) := by
    rw [← hr, ← plainRead_eq_plainAt]
    exact accessWith_read_plain (access 65534) w s (region_ne_mmio h)
  rw [heldAt_eq_lookupKey] at hheld
  refine ⟨m, ?_, hbytes⟩
  rw [memWrite_mmio w v s (region_of_inMmio hmmio), mmioWrite_trigger _ _ hheld]
  have hd : descAddr s = d := descAddr_eq_descriptor s
  simp only [dmaTransfer, hd, read hcnt hcount, read hsrcOff hsrc, read hdstOff hdst, read hnextOff hnext,
    Except.bind]
  exact congrArg (Except.map (finishTransfer next)) hcopy

end Sys2Proof.Proofs
end

section
/-! # 47_push_pop_multiple.md: transfers of several registers -/

namespace Sys2Proof.Proofs

open Sys2Proof Sys2Proof.Machine Sys2Proof.Claims Sys2Proof.Laws

/-! ### Words laid out one after another -/

theorem byteOfWords_first (w : Word) (ws : List Word) {k : Nat} (hk : k < 4) :
    byteOfWords (w :: ws) k = w.extractLsb' (8 * k) 8 := by
  have hdiv : k / 4 = 0 := by omega
  have hmod : k % 4 = k := by omega
  rw [byteOfWords, hdiv, hmod]
  rfl

theorem byteOfWords_rest (w : Word) (ws : List Word) (k : Nat) :
    byteOfWords (w :: ws) (k + 4) = byteOfWords ws k := by
  have hdiv : (k + 4) / 4 = k / 4 + 1 := by omega
  have hmod : (k + 4) % 4 = k % 4 := by omega
  rw [byteOfWords, hdiv, hmod]
  rfl

theorem toNat_add_four {a : Word} (h : a.toNat + 4 < 2 ^ 32) : (a + 4).toNat = a.toNat + 4 :=
  toNat_add_ofNat (n := 4) h

/-- From `base` on `s` reads as the words. -/
def ReadsWords (s : State) (base : Word) (ws : List Word) : Prop :=
  ∀ a, within base (4 * ws.length) a → peek s a = byteOfWords ws (a.toNat - base.toNat)

theorem ReadsWords.first {s : State} {base w : Word} {ws : List Word} (h : ReadsWords s base (w :: ws))
    (a : Word) (ha : within base 4 a) : peek s a = w.extractLsb' (8 * (a.toNat - base.toNat)) 8 := by
  obtain ⟨hle, hlt⟩ := ha
  rw [h a ⟨hle, by rw [List.length_cons]; omega⟩, byteOfWords_first _ _ (by omega)]

theorem ReadsWords.rest {s : State} {base w : Word} {ws : List Word} (h : ReadsWords s base (w :: ws))
    (hbase : base.toNat + 4 < 2 ^ 32) : ReadsWords s (base + 4) ws := by
  intro a ⟨hle, hlt⟩
  rw [toNat_add_four hbase] at hle hlt ⊢
  have hidx : a.toNat - base.toNat = a.toNat - (base.toNat + 4) + 4 := by omega
  rw [h a ⟨by omega, by rw [List.length_cons]; omega⟩, hidx, byteOfWords_rest]

/-- The RAM `m` holds the words from `base` on, and else what the RAM of `s` holds. -/
structure Laid (s : State) (base : Word) (ws : List Word) (m : Memory) : Prop where
  wf : Memory.wf m
  bytes : ∀ a, peek { s with ram := m } a =
    if within base (4 * ws.length) a then byteOfWords ws (a.toNat - base.toNat) else peek s a

theorem Laid.nil {s : State} (wf : Memory.wf s.ram) (base : Word) : Laid s base [] s.ram :=
  ⟨wf, fun a => (if_neg fun h => by rw [within, List.length_nil] at h; omega).symm⟩

theorem Laid.readsWords {s : State} {base : Word} {ws : List Word} {m : Memory} (h : Laid s base ws m) :
    ReadsWords { s with ram := m } base ws :=
  fun a ha => (h.bytes a).trans (if_pos ha)

/-- A word and the words above it, byte by byte. -/
theorem byteOfWords_cons {base w : Word} (ws : List Word) (hbase : base.toNat + 4 < 2 ^ 32) (a : Word)
    (p : Byte) :
    (if within base (4 * (w :: ws).length) a then byteOfWords (w :: ws) (a.toNat - base.toNat) else p) =
      if within base 4 a then w.extractLsb' (8 * (a.toNat - base.toNat)) 8
      else if within (base + 4) (4 * ws.length) a then byteOfWords ws (a.toNat - (base + 4).toNat)
      else p := by
  unfold within
  rw [toNat_add_four hbase, List.length_cons]
  by_cases hfirst : base.toNat ≤ a.toNat ∧ a.toNat < base.toNat + 4
  · rw [if_pos hfirst, if_pos (by omega), byteOfWords_first _ _ (by omega)]
  · rw [if_neg hfirst]
    by_cases hrest : base.toNat + 4 ≤ a.toNat ∧ a.toNat < base.toNat + 4 + 4 * ws.length
    · have hidx : a.toNat - base.toNat = a.toNat - (base.toNat + 4) + 4 := by omega
      rw [if_pos hrest, if_pos (by omega), hidx, byteOfWords_rest]
    · rw [if_neg hrest, if_neg (by omega)]

/-- A word stored in RAM. -/
theorem memWrite_word {s : State} (wf : Memory.wf s.ram) {a : Word} (ha : ramHolds s a 4) (v : Word) :
    ∃ m, memWrite a .word v s = .ok { s with ram := m } ∧ Memory.wf m ∧
      ∀ b, peek { s with ram := m } b =
        if within a 4 b then v.extractLsb' (8 * (b.toNat - a.toNat)) 8 else peek s b := by
  obtain ⟨hlo, hsize, hhi⟩ := ha
  have hin : inRam a := ⟨hlo, by omega⟩
  refine ⟨(storeRam a .word v s).ram, memWrite_ram .word v s (region_eq_ram.mpr hin), storeRam_wf wf _ _ _,
    fun b => (peek_storeRam wf hin .word v b).trans ?_⟩
  refine if_congr ⟨fun h => h.1, fun h => ⟨h, ?_, ?_⟩⟩ rfl rfl
  · exact ⟨hlo.trans h.1, h.2.trans_le hhi⟩
  · exact h.2.trans_le hsize

/-- Words stored above a first one, which was stored before them. -/
theorem Laid.cons {s : State} {base w : Word} {ws : List Word} {m₁ m : Memory}
    (hbase : base.toNat + 4 < 2 ^ 32)
    (hfirst : ∀ a, peek { s with ram := m₁ } a =
      if within base 4 a then w.extractLsb' (8 * (a.toNat - base.toNat)) 8 else peek s a)
    (hrest : Laid { s with ram := m₁ } (base + 4) ws m) : Laid s base (w :: ws) m := by
  refine ⟨hrest.wf, fun a => (hrest.bytes a).trans ?_⟩
  rw [hfirst, byteOfWords_cons ws hbase]
  by_cases ha : within base 4 a
  · have hbelow : ¬ within (base + 4) (4 * ws.length) a := by
      unfold within at ha ⊢
      rw [toNat_add_four hbase]
      omega
    rw [if_neg hbelow]
    simp only [if_pos ha]
  · simp only [if_neg ha]

/-- A word stored below words that were stored before it. -/
theorem Laid.below {s : State} {base w : Word} {ws : List Word} {m₁ m : Memory}
    (hbase : base.toNat + 4 < 2 ^ 32) (hrest : Laid s (base + 4) ws m₁) (wf : Memory.wf m)
    (hfirst : ∀ a, peek { s with ram := m } a =
      if within base 4 a then w.extractLsb' (8 * (a.toNat - base.toNat)) 8
      else peek { s with ram := m₁ } a) : Laid s base (w :: ws) m :=
  ⟨wf, fun a => by rw [hfirst, hrest.bytes, byteOfWords_cons ws hbase]⟩

/-! ### Stores and loads of several registers -/

/-- R305: the model's loop answers what the rule's does. -/
theorem storeMany_of_writeAll {rs : List Reg} {a : Word} {s t : State} (h : writeAll rs a s = some t) :
    storeMany rs a s = .ok t := by
  induction rs generalizing a s with
  | nil => cases h; rfl
  | cons r rs ih =>
    obtain ⟨u, hu, h⟩ := Option.bind_eq_some_iff.mp h
    have hwrite : memWrite a .word (s.reg r) s = .ok u := memWrite_of_writeOf hu
    rw [storeMany, hwrite]
    exact ih h

theorem loadMany_of_readAll {rs : List Reg} {a : Word} {s t : State} (h : readAll rs a s = some t) :
    loadMany rs a s = .ok t := by
  induction rs generalizing a s with
  | nil => cases h; rfl
  | cons r rs ih =>
    obtain ⟨y, hy, h⟩ := Option.bind_eq_some_iff.mp h
    rw [loadMany, memRead_of_readOf hy]
    exact ih h

/-- R305: in RAM the stores lay out the registers, and change nothing else. -/
theorem storeMany_in_ram {rs : List Reg} {base : Word} {s : State} (wf : Memory.wf s.ram)
    (hin : ramHolds s base (4 * rs.length)) :
    ∃ m, storeMany rs base s = .ok { s with ram := m } ∧ Laid s base (rs.map (x s)) m := by
  induction rs generalizing base s with
  | nil => exact ⟨s.ram, rfl, Laid.nil wf base⟩
  | cons r rs ih =>
    obtain ⟨hlo, hsize, hhi⟩ := hin
    rw [List.length_cons] at hsize hhi
    have hnext : (base + 4).toNat = base.toNat + 4 := toNat_add_four (by omega)
    obtain ⟨m₁, hwrite, hwf, hfirst⟩ := memWrite_word wf (a := base) ⟨hlo, by omega, by omega⟩ (x s r)
    obtain ⟨m, hstores, hrest⟩ := ih (s := { s with ram := m₁ }) (base := base + 4) hwf
      ⟨by omega, by show _ ≤ _ + s.cfg.ramSize; omega, by omega⟩
    have hwrite : memWrite base .word (s.reg r) s = .ok { s with ram := m₁ } := hwrite
    refine ⟨m, ?_, Laid.cons (by omega) hfirst hrest⟩
    rw [storeMany, hwrite]
    exact hstores

theorem peek_put (s : State) (r : Reg) (v a : Word) : peek (put s r v) a = peek s a :=
  peek_congr rfl rfl rfl

/-- R305: from words laid out in RAM the loads give each register its word, and change nothing else. -/
theorem loadMany_of_words {f : Reg → Word} {rs : List Reg} {base : Word} {s : State}
    (hlo : 0x20000000 ≤ base.toNat) (hhi : base.toNat + 4 * rs.length ≤ 0x40000000)
    (hwords : ReadsWords s base (rs.map f)) :
    ∃ t, loadMany rs base s = .ok t ∧ t = { s with regs := t.regs } ∧
      ∀ q, x t q = if q ∈ rs then f q else x s q := by
  induction rs generalizing base s with
  | nil => exact ⟨s, rfl, rfl, fun q => (if_neg List.not_mem_nil).symm⟩
  | cons r rs ih =>
    rw [List.length_cons] at hhi
    have hnext : (base + 4).toNat = base.toNat + 4 := toNat_add_four (by omega)
    have hread := memRead_of_bytes hlo (by omega) (ReadsWords.first hwords)
    have hrest : ReadsWords (put s r (f r)) (base + 4) (rs.map f) :=
      fun a ha => (peek_put s r _ a).trans (ReadsWords.rest hwords (by omega) a ha)
    obtain ⟨t, hloads, hsame, hregs⟩ := ih (s := put s r (f r)) (base := base + 4) (by omega) (by omega) hrest
    refine ⟨t, ?_, hsame, fun q => ?_⟩
    · rw [loadMany, hread]
      exact hloads
    · rw [hregs, x_put]
      by_cases hq : q ∈ rs
      · rw [if_pos hq, if_pos (List.mem_cons_of_mem r hq)]
      · by_cases hqr : q = r
        · subst hqr
          rw [if_neg hq, if_pos rfl, if_pos List.mem_cons_self]
        · rw [if_neg hq, if_neg hqr, if_neg (List.mem_cons.not.mpr (not_or.mpr ⟨hqr, hq⟩))]

/-! ### PUSH and POP -/

/-- R113: format F14. -/
theorem layout_F14 (op : BitVec 7) (b : Bool) (rlist : BitVec 8) :
    op ++ BitVec.ofBool b ++ rlist = asHalf (op.toNat * 2 ^ 9 + putImm rlist 0 + putBit b 8) := by
  have hop := op.isLt
  have hb : (BitVec.ofBool b).toNat = b.toNat := BitVec.toNat_ofBool b
  have hb' := b.toNat_lt
  have hlist := rlist.isLt
  apply BitVec.eq_of_toNat_eq
  simp only [putImm, putBit, toNat_append_eq_add, hb]
  rw [asHalf_toNat (by omega)]
  omega

theorem push_of_storeMany {rlist : BitVec 8} {r : Bool} {s t : State}
    (h : storeMany (listedRegs rlist ++ (if r then [14] else []))
      (x s 13 - BitVec.ofNat 32 (4 * (listedRegs rlist ++ (if r then [14] else [])).length)) s = .ok t) :
    leads (.push rlist r) s
      (put t 13 (x s 13 - BitVec.ofNat 32 (4 * (listedRegs rlist ++ (if r then [14] else [])).length))) := by
  show answer (Except.map _ (storeMany _ _ s)) = _
  exact congrArg (fun y => answer (Except.map _ y)) h

/-- Settles O21: the stores are the rule's, and in RAM they lay out the registers. -/
theorem pushFollowsRule : Obligations.PushFollowsRule := by
  intro rlist r s regs start
  refine ⟨decodesTo_of_encoded rfl (fun _ => rfl) (by rw [layout_F14]; rfl),
    fun t h => push_of_storeMany (storeMany_of_writeAll h), fun wf hin => ?_⟩
  obtain ⟨m, hstores, hlaid⟩ := storeMany_in_ram wf hin
  refine ⟨m, push_of_storeMany hstores, fun a => (hlaid.bytes a).trans ?_⟩
  rw [List.length_map]

theorem pop_of_loadMany {rlist : BitVec 8} {p : Bool} {s t u : State}
    (h : loadMany (listedRegs rlist) (x s 13) s = .ok t)
    (hpc : popPc p (x s 13 + BitVec.ofNat 32 (4 * (listedRegs rlist).length)) t = .ok u) :
    leads (.pop rlist p) s (put u 13 (x u 13 + BitVec.ofNat 32 (4 * ((listedRegs rlist).length + p.toNat)))) := by
  show answer ((loadMany (listedRegs rlist) (x s 13) s).bind fun s1 => (popPc p _ s1).map _) = _
  rw [h]
  show answer ((popPc p (x s 13 + BitVec.ofNat 32 (4 * (listedRegs rlist).length)) t).map _) = _
  rw [hpc]
  rfl

/-- Settles O22: the loads are the rule's; the popped program counter goes through the branch. -/
theorem popFollowsRule : Obligations.PopFollowsRule := by
  intro rlist s t regs
  refine ⟨decodesTo_of_encoded rfl (fun _ => rfl) ?_, decodesTo_of_encoded rfl (fun _ => rfl) ?_,
    fun h => ⟨pop_of_loadMany (loadMany_of_readAll h) rfl, fun v u hv => ?_⟩⟩
  · rw [show (0b0#1) = BitVec.ofBool false from rfl, layout_F14]
    rfl
  · rw [show (0b1#1) = BitVec.ofBool true from rfl, layout_F14]
    rfl
  · have hpc : popPc true (x s 13 + BitVec.ofNat 32 (4 * (listedRegs rlist).length)) t = .ok (jump u v) := by
      rw [popPc, if_pos rfl, memRead_of_readOf hv]
      rfl
    have hsp : x (jump u v) 13 = x u 13 := (x_jump u v 13).trans (if_neg (by decide))
    exact hsp ▸ pop_of_loadMany (loadMany_of_readAll h) hpc

/-! ### STMIA and LDMIA -/

theorem stmia_of_storeMany {rn : Reg} {rlist : BitVec 8} {s t : State}
    (h : storeMany (listedRegs rlist) (x s rn) s = .ok t) :
    leads (.stmia rn rlist) s (put t rn (x t rn + BitVec.ofNat 32 (4 * (listedRegs rlist).length))) := by
  show answer (Except.map _ (storeMany _ _ s)) = _
  exact congrArg (fun y => answer (Except.map _ y)) h

/-- Settles O23: as for PUSH, with the base written after the stores. -/
theorem stmiaFollowsRule : Obligations.StmiaFollowsRule := by
  intro n rlist s regs base
  refine ⟨decodesTo_F3 (EncodingRoundTrip.stmia _ _) rfl (fun _ => rfl) rfl,
    fun t h => stmia_of_storeMany (storeMany_of_writeAll h), fun wf hin => ?_⟩
  obtain ⟨m, hstores, hlaid⟩ := storeMany_in_ram wf hin
  refine ⟨m, stmia_of_storeMany hstores, fun a => (hlaid.bytes a).trans ?_⟩
  rw [List.length_map]

theorem mem_listedRegs {r : Reg} {rlist : BitVec 8} : r ∈ listedRegs rlist ↔ rlist.getLsbD r.val = true := by
  rw [listedRegs, List.mem_filter]
  refine ⟨fun h => h.2, fun h => ⟨?_, h⟩⟩
  have hr : r.val < 8 := by
    by_contra hge
    rw [BitVec.getLsbD_of_ge _ _ (not_lt.mp hge)] at h
    exact Bool.false_ne_true h
  have below_eight : ∀ q : Reg, q.val < 8 → q ∈ ([0, 1, 2, 3, 4, 5, 6, 7] : List Reg) := by decide
  exact below_eight r hr

/-- Settles O24: the base keeps its loaded value exactly when it is listed. -/
theorem ldmiaFollowsRule : Obligations.LdmiaFollowsRule := by
  intro n rlist s t regs
  refine ⟨decodesTo_F3 (EncodingRoundTrip.ldmia _ _) rfl (fun _ => rfl) rfl, fun h => ?_⟩
  show answer (Except.map _ (loadMany _ _ s)) = _
  refine (congrArg (fun y => answer (Except.map _ y)) (loadMany_of_readAll h)).trans ?_
  have hlisted : low n ∈ listedRegs rlist ↔ rlist.getLsbD n.toNat = true := mem_listedRegs
  exact congrArg Host.Outcome.next (if_congr hlisted rfl rfl)

/-! ### R304 -/

/-- Settles O25: between the two the frame is read as it was laid out. -/
theorem pushPopRoundTrip : Obligations.PushPopRoundTrip := by
  intro rlist s size start wf hin
  obtain ⟨m, hstores, hlaid⟩ := storeMany_in_ram wf hin
  have hpush := push_of_storeMany (rlist := rlist) (r := false) (s := s) (t := { s with ram := m })
  simp only [Bool.false_eq_true, if_false, List.append_nil] at hpush
  refine ⟨_, hpush hstores, x_put_same _ 13 _, fun u _ hsp hsame => ?_⟩
  rw [x_put_same] at hsp
  have hwords : ReadsWords u start ((listedRegs rlist).map (x s)) := fun a ha =>
    (hsame a (by rwa [List.length_map] at ha)).trans ((peek_put _ 13 _ a).trans (hlaid.readsWords a ha))
  obtain ⟨v, hloads, -, hregs⟩ := loadMany_of_words hin.1 hin.2.2 hwords
  have hnotListed : (13 : Reg) ∉ listedRegs rlist := by
    rw [mem_listedRegs, BitVec.getLsbD_of_ge _ _ (by decide)]
    exact Bool.false_ne_true
  have hpop := pop_of_loadMany (p := false) (rlist := rlist) (s := u) (t := v) (by rw [hsp]; exact hloads) rfl
  have hend : x v 13 + BitVec.ofNat 32 (4 * ((listedRegs rlist).length + false.toNat)) = x s 13 := by
    rw [hregs, if_neg hnotListed, hsp]
    exact BitVec.sub_add_cancel _ _
  refine ⟨_, hpop, (x_put_same _ _ _).trans hend, fun q => ?_⟩
  rw [x_put, hend, hregs]
  by_cases hq : q = 13
  · subst hq
    rw [if_pos rfl, if_neg hnotListed, if_pos rfl]
  · rw [if_neg hq]
    simp only [if_neg hq]

end Sys2Proof.Proofs
end

section
/-! # 60_exceptions.md: taking an exception and returning from one -/

namespace Sys2Proof.Proofs

open Sys2Proof Sys2Proof.Machine Sys2Proof.Claims Sys2Proof.Laws

/-! ### Wherever the accesses complete -/

/-- R370: a push lowers the stack pointer, then stores there. -/
theorem pushWord_of_memWrite {v base : Word} {s u t : State} (hsp : x s 13 - 4 = base)
    (hu : put s 13 base = u) (hwrite : memWrite base .word v u = .ok t) : pushWord v s = .ok t := by
  subst hsp hu
  unfold pushWord
  simp only [reg_setReg_same]
  exact hwrite

theorem pushWord_of_pushed {v : Word} {s t : State} (h : pushed v s = some t) : pushWord v s = .ok t :=
  pushWord_of_memWrite rfl rfl (memWrite_of_writeOf h)

/-- Settles O31: eight pushes, then the same updates. -/
theorem exceptionEntryFollowsRule : Obligations.ExceptionEntryFollowsRule := by
  intro vector s t h
  obtain ⟨s₁, h₁, h⟩ := Option.bind_eq_some_iff.mp h
  obtain ⟨s₂, h₂, h⟩ := Option.bind_eq_some_iff.mp h
  obtain ⟨s₃, h₃, h⟩ := Option.bind_eq_some_iff.mp h
  obtain ⟨s₄, h₄, h⟩ := Option.bind_eq_some_iff.mp h
  obtain ⟨s₅, h₅, h⟩ := Option.bind_eq_some_iff.mp h
  obtain ⟨s₆, h₆, h⟩ := Option.bind_eq_some_iff.mp h
  obtain ⟨s₇, h₇, h⟩ := Option.bind_eq_some_iff.mp h
  obtain ⟨s₈, h₈, rfl⟩ := Option.map_eq_some_iff.mp h
  have pushReg {r : Reg} {u w : State} (h : pushed (x u r) u = some w) : pushWord (u.reg r) u = .ok w :=
    pushWord_of_pushed h
  simp only [exceptionEntry, pushRegs, psrImage_eq_psrWord, pushWord_of_pushed h₁, pushReg h₂, pushReg h₃,
    pushReg h₄, pushReg h₅, pushReg h₆, pushReg h₇, pushReg h₈, Except.bind, Except.map]
  rfl

/-- R375: the model's pop moves the stack pointer, then the register is written. -/
theorem popWord_of_popped {r : Reg} {s t : State} (h : popped r s = some t) :
    ∃ w u, popWord s = .ok (w, u) ∧ t = put u r w := by
  obtain ⟨y, hy, rfl⟩ := Option.map_eq_some_iff.mp h
  have hread : memRead (s.reg sp) .word s = .ok y := memRead_of_readOf hy
  exact ⟨y.1, put y.2 13 (x y.2 13 + 4), by rw [popWord, hread]; rfl, rfl⟩

theorem popRegs_of_popped {r : Reg} (rs : List Reg) {s t : State} (h : popped r s = some t) :
    popRegs (r :: rs) s = popRegs rs t := by
  obtain ⟨w, u, hpop, rfl⟩ := popWord_of_popped h
  rw [popRegs, hpop]
  rfl

theorem put_put (s : State) (r : Reg) (v w : Word) : put (put s r v) r w = put s r w := by
  refine state_ext (fun q => ?_) rfl
  rw [x_put, x_put, x_put]
  by_cases hq : q = r
  · rw [if_pos hq, if_pos hq]
  · rw [if_neg hq, if_neg hq, if_neg hq]

/-- Settles O33: eight pops; the rule writes the program counter and clears its bit 0, the model writes it
cleared. -/
theorem exceptionExitFollowsRule : Obligations.ExceptionExitFollowsRule := by
  intro s t h
  obtain ⟨s₁, h₁, h⟩ := Option.bind_eq_some_iff.mp h
  obtain ⟨s₂, h₂, h⟩ := Option.bind_eq_some_iff.mp h
  obtain ⟨s₃, h₃, h⟩ := Option.bind_eq_some_iff.mp h
  obtain ⟨s₄, h₄, h⟩ := Option.bind_eq_some_iff.mp h
  obtain ⟨s₅, h₅, h⟩ := Option.bind_eq_some_iff.mp h
  obtain ⟨s₆, h₆, h⟩ := Option.bind_eq_some_iff.mp h
  obtain ⟨s₇, h₇, h⟩ := Option.bind_eq_some_iff.mp h
  obtain ⟨y, hy, rfl⟩ := Option.map_eq_some_iff.mp h
  obtain ⟨w, u, hpc, rfl⟩ := popWord_of_popped h₇
  have hregs : popRegs [0, 1, 2, 3, 12, lr] s = .ok s₆ := by
    rw [popRegs_of_popped _ h₁, popRegs_of_popped _ h₂, popRegs_of_popped _ h₃, popRegs_of_popped _ h₄,
      popRegs_of_popped _ h₅, popRegs_of_popped (r := lr) _ h₆]
    rfl
  rw [x_put_same, put_put, x_put_other u w (by decide)] at hy
  have hflags : popWord (u.setReg pc (w &&& 0xFFFFFFFE)) = .ok (y.1, put y.2 13 (x y.2 13 + 4)) := by
    have hread : memRead (u.reg sp) .word (u.setReg pc (w &&& 0xFFFFFFFE)) = .ok y := memRead_of_readOf hy
    rw [popWord, reg_setReg_other u _ (by decide), hread]
    rfl
  simp only [exceptionExit, hregs, hpc, hflags, Except.bind, Except.map]
  rfl

/-! ### On a stack inside RAM -/

/-- R370: a push lays the word out below those already there. -/
theorem pushWord_in_ram {s : State} {base v : Word} {ws : List Word} {m : Memory} (hin : ramHolds s base 4)
    (hlaid : Laid s (base + 4) ws m) :
    ∃ m', pushWord v { put s 13 (base + 4) with ram := m } = .ok { put s 13 base with ram := m' } ∧
      Laid s base (v :: ws) m' := by
  obtain ⟨hlo, hsize, hhi⟩ := hin
  obtain ⟨m', hwrite, hwf, hfirst⟩ := memWrite_word (s := { put s 13 base with ram := m }) hlaid.wf
    (a := base) ⟨hlo, hsize, hhi⟩ v
  have hsp : x (put s 13 (base + 4)) 13 - 4 = base := by
    rw [x_put_same, BitVec.add_sub_cancel]
  have hstate := congrArg (fun u : State => { u with ram := m }) (put_put s 13 (base + 4) base)
  exact ⟨m', pushWord_of_memWrite hsp hstate hwrite, Laid.below (by omega) hlaid hwf hfirst⟩

/-- R370, R371: pushes in list order lay the registers out in the reverse order, upwards. -/
theorem pushRegs_in_ram {s : State} {top : Word} {rs : List Reg} {ws : List Word} {m : Memory}
    (hrs : (13 : Reg) ∉ rs) (hin : ramHolds s top (4 * rs.length))
    (hlaid : Laid s (top + BitVec.ofNat 32 (4 * rs.length)) ws m) :
    ∃ m', pushRegs rs { put s 13 (top + BitVec.ofNat 32 (4 * rs.length)) with ram := m } =
        .ok { put s 13 top with ram := m' } ∧
      Laid s top ((rs.map (x s)).reverse ++ ws) m' := by
  induction rs generalizing ws m with
  | nil =>
    rw [List.length_nil, Nat.mul_zero, BitVec.add_zero] at hlaid ⊢
    exact ⟨m, rfl, hlaid⟩
  | cons r rs ih =>
    obtain ⟨hr, hrs⟩ := not_or.mp (List.mem_cons.not.mp hrs)
    obtain ⟨hlo, hsize, hhi⟩ := hin
    rw [List.length_cons] at hsize hhi hlaid ⊢
    have hnext : top + BitVec.ofNat 32 (4 * (rs.length + 1)) =
        top + BitVec.ofNat 32 (4 * rs.length) + 4 := by
      rw [Nat.mul_succ, BitVec.ofNat_add, ← BitVec.add_assoc]
      rfl
    have hbase : (top + BitVec.ofNat 32 (4 * rs.length)).toNat = top.toNat + 4 * rs.length :=
      toNat_add_ofNat (by omega)
    rw [hnext] at hlaid ⊢
    obtain ⟨m₁, hpush, hlaid⟩ := pushWord_in_ram (v := x s r) ⟨by omega, by omega, by omega⟩ hlaid
    obtain ⟨m', hpushes, hlaid⟩ := ih hrs ⟨hlo, by omega, by omega⟩ hlaid
    refine ⟨m', ?_, ?_⟩
    · have hreg : State.reg { put s 13 (top + BitVec.ofNat 32 (4 * rs.length) + 4) with ram := m } r = x s r :=
        x_put_other s _ fun h => hr h.symm
      rw [pushRegs, hreg, hpush]
      exact hpushes
    · rw [List.map_cons, List.reverse_cons, List.append_assoc]
      exact hlaid

/-- The words of the exception frame, from the new stack pointer up (R371). -/
def frameWords (s : State) : List Word :=
  [x s 0, x s 1, x s 2, x s 3, x s 12, x s 14, x s 15, psrWord s.flags]

theorem exceptionEntry_in_ram (vector : Word) {s : State} (wf : Memory.wf s.ram)
    (hin : ramHolds s (x s 13 - 32) 32) :
    ∃ m, exceptionEntry vector s =
        .ok { put (jump (put s 13 (x s 13 - 32)) vector) 14 0xFFFFFFF8 with ram := m, excActive := true } ∧
      Laid s (x s 13 - 32) (frameWords s) m := by
  generalize htop : x s 13 - 32 = top at hin ⊢
  obtain ⟨hlo, hsize, hhi⟩ := hin
  have hbase : (top + 28).toNat = top.toNat + 28 := toNat_add_ofNat (n := 28) (by omega)
  have hsp : x s 13 = top + 28 + 4 := by
    rw [← htop]
    bv_omega
  have hstart : { put s 13 (top + 28 + 4) with ram := s.ram } = s := by
    rw [← hsp]
    exact setReg_self s 13
  obtain ⟨m₁, hpsr, hlaid⟩ := pushWord_in_ram (v := psrWord s.flags) ⟨by omega, by omega, by omega⟩
    (Laid.nil wf (top + 28 + 4))
  obtain ⟨m, hregs, hlaid⟩ := pushRegs_in_ram (rs := [15, 14, 12, 3, 2, 1, 0]) (top := top) (by decide)
    ⟨hlo, by show _ + 28 ≤ _; omega, by show _ + 28 ≤ _; omega⟩ hlaid
  refine ⟨m, ?_, hlaid⟩
  rw [hstart] at hpsr
  have hregs : pushRegs [pc, lr, 12, 3, 2, 1, 0] { put s 13 (top + 28) with ram := m₁ } =
      .ok { put s 13 top with ram := m } := hregs
  simp only [exceptionEntry, psrImage_eq_psrWord, hpsr, hregs, Except.bind, Except.map]
  rfl

/-- Settles O32: eight words laid out below the old stack pointer. -/
theorem exceptionEntryFrame : Obligations.ExceptionEntryFrame := by
  intro vector s top wf hin
  obtain ⟨m, hentry, hlaid⟩ := exceptionEntry_in_ram vector wf hin
  exact ⟨m, hentry, hlaid.bytes⟩

/-! ### R378 -/

theorem popWord_of_words {s : State} {base w : Word} {ws : List Word} (hsp : x s 13 = base)
    (hlo : 0x20000000 ≤ base.toNat) (hhi : base.toNat + 4 ≤ 0x40000000)
    (hwords : ReadsWords s base (w :: ws)) : popWord s = .ok (w, put s 13 (base + 4)) := by
  subst hsp
  have hread : memRead (s.reg sp) .word s = .ok (w, s) := memRead_of_bytes hlo hhi hwords.first
  rw [popWord, hread]
  rfl

/-- R375: from words laid out on the stack the pops give each register its word, and raise the stack
pointer past them. -/
theorem popRegs_of_words {f : Reg → Word} {rs : List Reg} {ws : List Word} {base : Word} {s : State}
    (hrs : (13 : Reg) ∉ rs) (hsp : x s 13 = base) (hlo : 0x20000000 ≤ base.toNat)
    (hhi : base.toNat + 4 * rs.length ≤ 0x40000000) (hwords : ReadsWords s base (rs.map f ++ ws)) :
    ∃ t, popRegs rs s = .ok t ∧ t = { s with regs := t.regs } ∧
      (∀ q, x t q = if q ∈ rs then f q else if q = 13 then base + BitVec.ofNat 32 (4 * rs.length) else x s q) ∧
      ReadsWords t (base + BitVec.ofNat 32 (4 * rs.length)) ws := by
  induction rs generalizing base s with
  | nil =>
    rw [List.length_nil, Nat.mul_zero, BitVec.add_zero]
    refine ⟨s, rfl, rfl, fun q => ?_, hwords⟩
    by_cases hq : q = 13
    · simp [hq, hsp]
    · simp [hq]
  | cons r rs ih =>
    obtain ⟨hr, hrs⟩ := not_or.mp (List.mem_cons.not.mp hrs)
    rw [List.length_cons] at hhi ⊢
    have hnext : (base + 4).toNat = base.toNat + 4 := toNat_add_four (by omega)
    have hpop : popWord s = .ok (f r, put s 13 (base + 4)) := popWord_of_words hsp hlo (by omega) hwords
    have hrest : ReadsWords (put (put s 13 (base + 4)) r (f r)) (base + 4) (rs.map f ++ ws) := fun a ha => by
      rw [peek_put, peek_put]
      exact ReadsWords.rest hwords (by omega) a ha
    have hsp' : x (put (put s 13 (base + 4)) r (f r)) 13 = base + 4 := by
      rw [x_put_other _ _ hr, x_put_same]
    obtain ⟨t, hpops, hsame, hregs, hwords'⟩ := ih hrs hsp' (by omega) (by omega) hrest
    have hend : base + 4 + BitVec.ofNat 32 (4 * rs.length) = base + BitVec.ofNat 32 (4 * (rs.length + 1)) := by
      rw [Nat.mul_succ, Nat.add_comm, BitVec.ofNat_add, ← BitVec.add_assoc]
      rfl
    rw [hend] at hregs hwords'
    refine ⟨t, ?_, hsame, fun q => ?_, hwords'⟩
    · rw [popRegs, hpop]
      exact hpops
    · rw [hregs, x_put, x_put]
      by_cases hq : q = r
      · have hne : r ≠ 13 := fun h => hr h.symm
        simp [hq, hne]
      · by_cases hsp : q = 13
        · simp [hsp, hrs, hr]
        · simp [hq, hsp]

/-- A word with bit 0 clear is not changed by clearing it. -/
theorem and_evenMask {v : Word} (h : v.toNat % 2 = 0) : v &&& 0xFFFFFFFE#32 = v := by
  have hcleared : v >>> 1 <<< 1 = v &&& 0xFFFFFFFE#32 := BitVec.shiftLeft_ushiftRight
  rw [← hcleared]
  apply BitVec.eq_of_toNat_eq
  have hlt := v.isLt
  rw [BitVec.toNat_shiftLeft, BitVec.toNat_ushiftRight, Nat.shiftLeft_eq, Nat.shiftRight_eq_div_pow]
  omega

theorem flagsOfPsr_psrWord (f : Flags) : flagsOfPsr (psrWord f) = f := by
  obtain ⟨hn, hz, hc, hv⟩ := psrImage_bits f
  rw [← psrImage_eq_psrWord, flagsOfPsr, hn, hz, hc, hv]

/-- R378: the popped registers are those stacked, the others those of the handler. -/
theorem x_restored {s t u : State} {w : Word}
    (hregs : ∀ q, x t q =
      if q ∈ ([0, 1, 2, 3, 12, 14] : List Reg) then x s q else if q = 13 then w else x u q) (v : Word) (q : Reg) :
    x (put (put (put t 13 v) 15 (x s 15)) 13 (x s 13)) q =
      if 4 ≤ q.val ∧ q.val ≤ 11 then x u q else x s q := by
  rw [x_put, x_put, x_put, hregs]
  by_cases h13 : q = 13
  · rw [if_pos h13, if_neg (by rw [h13]; decide), h13]
  · by_cases h15 : q = 15
    · rw [if_neg h13, if_pos h15, if_neg (by rw [h15]; decide), h15]
    · have hlisted : q ∈ ([0, 1, 2, 3, 12, 14] : List Reg) ↔ ¬ (4 ≤ q.val ∧ q.val ≤ 11) := by
        revert h13 h15
        revert q
        decide
      simp only [h13, h15, hlisted, if_false, ite_not]

/-- R375, R378: an exit from the frame of `s` on the stack of `u`; the stacked program counter is even. -/
theorem exceptionExit_of_words {s u : State} (hsp : x u 13 = x s 13 - 32)
    (hlo : 0x20000000 ≤ (x s 13 - 32).toNat) (hhi : (x s 13 - 32).toNat + 32 ≤ 0x40000000)
    (heven : (x s 15).toNat % 2 = 0) (hwords : ReadsWords u (x s 13 - 32) (frameWords s)) :
    ∃ regs, exceptionExit u = .ok { u with regs := regs, flags := s.flags, excActive := false } ∧
      ∀ r : Reg, regs[r.val] = if 4 ≤ r.val ∧ r.val ≤ 11 then x u r else x s r := by
  generalize htop : x s 13 - 32 = top at *
  obtain ⟨t, hpops, hsame, hregs, hrest⟩ := popRegs_of_words (f := x s) (rs := [0, 1, 2, 3, 12, 14])
    (ws := [x s 15, psrWord s.flags]) (by decide) hsp hlo (by show _ + 24 ≤ _; omega) hwords
  have hregs (q : Reg) : x t q =
      if q ∈ ([0, 1, 2, 3, 12, 14] : List Reg) then x s q else if q = 13 then top + 24 else x u q := hregs q
  have hrest : ReadsWords t (top + 24) [x s 15, psrWord s.flags] := hrest
  have hsp₁ : x t 13 = top + 24 := (hregs 13).trans (by rw [if_neg (by decide), if_pos rfl])
  have hbase₁ : (top + 24).toNat = top.toNat + 24 := toNat_add_ofNat (n := 24) (by omega)
  have hpc : popWord t = .ok (x s 15, put t 13 (top + 24 + 4)) :=
    popWord_of_words hsp₁ (by omega) (by omega) hrest
  have hbase₂ : (top + 24 + 4).toNat = top.toNat + 28 := (toNat_add_four (by omega)).trans (by omega)
  have hflags : popWord (put (put t 13 (top + 24 + 4)) 15 (x s 15)) =
      .ok (psrWord s.flags, put (put (put t 13 (top + 24 + 4)) 15 (x s 15)) 13 (x s 13)) := by
    have hsp₂ : x (put (put t 13 (top + 24 + 4)) 15 (x s 15)) 13 = top + 24 + 4 := by
      rw [x_put_other _ _ (by decide), x_put_same]
    have hlast : ReadsWords (put (put t 13 (top + 24 + 4)) 15 (x s 15)) (top + 24 + 4) [psrWord s.flags] :=
      fun a ha => by
        rw [peek_put, peek_put]
        exact hrest.rest (by omega) a ha
    have hend : x s 13 = top + 24 + 4 + 4 := by
      rw [← htop]
      bv_omega
    rw [hend]
    exact popWord_of_words hsp₂ (by omega) (by omega) hlast
  have hexit : exceptionExit u = .ok { put (put (put t 13 (top + 24 + 4)) 15 (x s 15)) 13 (x s 13) with
      flags := s.flags, excActive := false } := by
    have hmasked : (put t 13 (top + 24 + 4)).setReg pc (x s 15 &&& 0xFFFFFFFE) =
        put (put t 13 (top + 24 + 4)) 15 (x s 15) :=
      congrArg _ (and_evenMask heven)
    have hpops : popRegs [0, 1, 2, 3, 12, lr] u = .ok t := hpops
    simp only [exceptionExit, hpops, hpc, hmasked, hflags, flagsOfPsr_psrWord, Except.bind, Except.map]
    rfl
  obtain ⟨regs, rfl⟩ : ∃ regs, t = { u with regs := regs } := ⟨_, hsame⟩
  exact ⟨_, hexit, x_restored hregs (top + 24 + 4)⟩

/-- Settles O34: the exit finds the frame as the entry laid it out. -/
theorem exceptionRoundTrip : Obligations.ExceptionRoundTrip := by
  intro vector s top wf hin heven
  obtain ⟨m, hentry, hlaid⟩ := exceptionEntry_in_ram vector wf hin
  refine ⟨_, hentry, fun u _ hsp hsame => ?_⟩
  have hwords : ReadsWords u top (frameWords s) := fun a ha =>
    (hsame a ha).trans ((peek_congr rfl rfl rfl).trans (hlaid.readsWords a ha))
  obtain ⟨regs, hexit, hregs⟩ := exceptionExit_of_words hsp hin.1 hin.2.2 heven hwords
  exact ⟨_, hexit, rfl, rfl, hregs, rfl⟩

end Sys2Proof.Proofs
end

section
/-! # 40_step_engine.md: the interrupt check, the exits, the decoded instruction -/

namespace Sys2Proof.Proofs

open Sys2Proof Sys2Proof.Machine Sys2Proof.Claims Sys2Proof.Laws

/-! ### The stages of a step, as the rules say them -/

/-- R61: the byte at the lower address is the low one. -/
theorem halfOfBytes_eq (b0 b1 : Byte) : halfOfBytes b0 b1 = BitVec.ofNat 16 (b0.toNat + 256 * b1.toNat) := by
  have h0 := b0.isLt
  have h1 := b1.isLt
  apply BitVec.eq_of_toNat_eq
  rw [halfOfBytes, toNat_append_eq_add, BitVec.toNat_ofNat]
  omega

theorem halfAt_eq (romSize : Nat) (image : Memory) (o : Nat) :
    halfAt romSize image o = halfOfBytes (imageByte romSize image o) (imageByte romSize image (o + 1)) :=
  (halfOfBytes_eq _ _).symm

/-- R130, R145: the decoder sees the halfword at the address and the one after it. -/
theorem fetch_eq_cacheAt (s : State) (a : Word) : fetch s a = cacheAt s a := by
  unfold fetch cacheLookup cacheAt
  cases s.icache with
  | empty => rfl
  | decoded image =>
    simp only [halfAt_eq]
    rfl

/-- R147, R362. -/
theorem retire_eq_ticked (tag : Event) (s : State) : retire tag s = ticked tag s := by
  unfold retire countTick ticked
  by_cases h : s.cfg.tickThreshold ≤ s.tickCount + 1
  · simp only [h, if_true, decide_true, Bool.true_or]
    rfl
  · simp only [h, if_false, decide_false, Bool.false_or]
    rfl

theorem retireResult_eq_finished (i : Instr) (r : Result) : retireResult i r = finished i r := by
  cases r with
  | next t => exact congrArg Host.Outcome.next (retire_eq_ticked _ _)
  | fault f => rfl
  | refused e => rfl

/-- R140 stages (d) and (e). -/
theorem executeAt_eq_runAt (s : State) : executeAt s = runAt s := by
  have hfetch : fetch s (instrAddr s) = cacheAt s (address s) := fetch_eq_cacheAt s _
  unfold executeAt runAt
  rw [hfetch]
  cases cacheAt s (address s) with
  | none => exact congrArg Host.Outcome.next (retire_eq_ticked _ _)
  | some i => exact retireResult_eq_finished i _

/-! ### Which of its stages a step goes through -/

theorem step_of_pendingSource {s : State} {src : Source} (h : pendingSource s = some src) :
    step s = answer (serviceInterrupt src s) := by
  rw [step, engineStep, h]

/-- R140, R368: with nothing to take the step runs where the exits end. -/
theorem step_of_exitLoop {s t : State} (hnone : noEntry s) (h : exitLoop exitFuel s = .ok t) :
    step s = runAt t := by
  rw [step, engineStep, pendingSource_eq_none.mpr hnone, h, ← executeAt_eq_runAt]

/-- R368: with nothing to take and away from the sentinel the step goes on. -/
theorem step_eq_runAt {s : State} (hnone : noEntry s) (hsentinel : address s ≠ 0xFFFFFFF8) :
    step s = runAt s :=
  step_of_exitLoop hnone (exitLoop_elsewhere _ hsentinel)

/-- Settles O35: the check finds the DMA bit before the tick bit. -/
theorem interruptCheck : Obligations.InterruptCheck := by
  refine fun s => ⟨fun hactive hdma => ?dma, fun hactive hdma htick => ?tick, step_eq_runAt⟩
  case dma =>
    have hsource : pendingSource s = some .dma := by simp [pendingSource, hactive, hdma]
    rw [step_of_pendingSource hsource, serviceInterrupt]
    cases exceptionEntry s.vecDma { s with dmaPending := false } with
    | ok t => rfl
    | error f => rfl
  case tick =>
    have hsource : pendingSource s = some .tick := by simp [pendingSource, hactive, hdma, htick]
    rw [step_of_pendingSource hsource, serviceInterrupt]
    cases exceptionEntry s.vecTick { s with tickPending := false } with
    | ok t => rfl
    | error f => rfl

/-- R376: the loop makes the rule's exits, as far as its bound reaches. -/
theorem exitLoop_of_exits {n fuel : Nat} {s t : State} (h : Exits n s t) (hfuel : n ≤ fuel)
    (hend : address t ≠ 0xFFFFFFF8) : exitLoop fuel s = .ok t := by
  induction h generalizing fuel with
  | none s => exact exitLoop_elsewhere _ hend
  | more hsentinel hexit _ ih =>
    obtain ⟨k, rfl⟩ := Nat.exists_eq_add_one_of_ne_zero (Nat.ne_zero_of_lt hfuel)
    rw [exitLoop_at_sentinel k hsentinel, exceptionExitFollowsRule _ _ hexit]
    exact ih (Nat.le_of_succ_le_succ hfuel) hend

/-- Settles O36: the loop ends in the state the exits lead to. -/
theorem sentinelExitsThenRuns : Obligations.SentinelExitsThenRuns :=
  fun _ _ _ hnone hfuel hexits hend => step_of_exitLoop hnone (exitLoop_of_exits hexits hfuel hend)

/-! ### What runs -/

/-- R142: the advanced program counter reads as the address plus 4. -/
theorem advanced_eq (s : State) : x s 15 + 2 = address s + 4 := by
  unfold address
  bv_omega

theorem eq_ok_of_toOption {α ε : Type} {r : Except ε α} {v : α} (h : r.toOption = some v) : r = .ok v := by
  cases r with
  | ok w => exact congrArg Except.ok (Option.some.inj h)
  | error e => cases h

theorem wellFormed_of_cacheAt {s : State} {a : Word} {i : Instr} (h : cacheAt s a = some i) :
    wellFormed i = true := by
  unfold cacheAt at h
  split at h
  · cases h
  · split at h
    · exact (encode_of_decode (eq_ok_of_toOption h)).1
    · cases h

/-- Settles O40: the cache entry is what the step executes. -/
theorem stepRunsDecodedInstruction : Obligations.StepRunsDecodedInstruction := by
  intro s i hnone hsentinel hcache
  refine ⟨wellFormed_of_cacheAt hcache, (x_put_same _ _ _).trans (advanced_eq s), ?_⟩
  rw [step_eq_runAt hnone hsentinel, runAt, hcache, advanced_eq]
  rfl

/-- R145: no entry exists at an odd address or beyond ROM. -/
theorem cacheAt_eq_none {s : State} {a : Word} (h : a.toNat % 2 = 1 ∨ s.cfg.romSize ≤ a.toNat) :
    cacheAt s a = none := by
  unfold cacheAt
  split
  · rfl
  · exact if_neg (by omega)

/-- Settles O41: in all three cases there is no cache entry. -/
theorem unrecognisedStepIsNoOp : Obligations.UnrecognisedStepIsNoOp := by
  intro s hnone hsentinel h
  have hcache : cacheAt s (address s) = none := by
    rcases h with hodd | hbeyond | hempty
    · exact cacheAt_eq_none (.inl hodd)
    · exact cacheAt_eq_none (.inr hbeyond)
    · exact hempty
  rw [step_eq_runAt hnone hsentinel, runAt, hcache, advanced_eq]

end Sys2Proof.Proofs
end

section
/-! # 70_reset_and_hazards.md and 20_memory.md R70: construction, reset, load_flash, registration -/

namespace Sys2Proof.Proofs

open Sys2Proof Sys2Proof.Machine Sys2Proof.Claims Sys2Proof.Laws

/-! ### Registration -/

/-- R70: what a map holds after an entry was put in. -/
theorem heldAt_insertKey {α : Type} {m : List (Nat × α)} (h : risingKeys m) (addr : Word) (v : α) (b : Word) :
    heldAt (insertKey addr.toNat v m) b = if b = addr then some v else heldAt m b := by
  rw [heldAt_eq_lookupKey, heldAt_eq_lookupKey, lookupKey_insertKey _ _ _ h]
  exact if_congr BitVec.toNat_inj rfl rfl

/-- Settles O58: each command puts one entry into one map. -/
theorem lastRegistrationWins : Obligations.LastRegistrationWins :=
  fun _ addr b hread hwrite =>
    ⟨_, _, rfl, rfl, heldAt_insertKey hread addr _ b, rfl, heldAt_insertKey hwrite addr _ b, rfl⟩

/-! ### Reset -/

theorem plainAt_congr {s u : State} {a : Word} {w : Width} (hcfg : s.cfg = u.cfg) (hrom : s.rom = u.rom)
    (hram : s.ram = u.ram) : plainAt s a w = plainAt u a w := by
  unfold plainAt romAt ramAt
  rw [hcfg, hrom, hram]

theorem x_foldl_zero (rs : List Reg) (s : State) (q : Reg) :
    x (rs.foldl (fun t r => t.setReg r 0) s) q = if q ∈ rs then 0 else x s q := by
  induction rs generalizing s with
  | nil => rfl
  | cons r rs ih =>
    rw [List.foldl_cons, ih]
    show (if q ∈ rs then 0 else x (put s r 0) q) = _
    rw [x_put]
    by_cases hq : q ∈ rs
    · simp [hq]
    · simp [hq]

/-- R421: the four words of the vector table. -/
structure VectorTable where
  stackTop : Word
  entry : Word
  tick : Word
  dma : Word

/-- The table at `offset`, as `MemRead` gives it outside MMIO. -/
def tableAt (s : State) (offset : Word) : VectorTable :=
  ⟨plainAt s offset .word, plainAt s (offset + 4) .word, plainAt s (offset + 0x3C) .word,
    plainAt s (offset + 0x58) .word⟩

/-- R421: the registers after `reset`. -/
def resetRegs (table : VectorTable) (r : Reg) : Word :=
  if r = 13 then table.stackTop else if r = 14 then 0xFFFFFFFF
  else if r = 15 then (table.entry &&& 0xFFFFFFFE#32) + 2 else 0

/-- R421: the state after `reset`, but for its registers. -/
def resetCells (table : VectorTable) (s : State) : State :=
  { s with
    flags := ⟨false, false, false, false⟩
    vecTick := table.tick
    vecDma := table.dma
    tickCount := 0, tickPending := false, dmaPending := false, excActive := false
    dmaCurDesc := 0, dmaChid := 0, dmaBase := 0 }

/-- No word of the table lies in MMIO. -/
structure TablePlain (offset : Word) : Prop where
  stackTop : ¬ inMmio offset
  entry : ¬ inMmio (offset + 4)
  tick : ¬ inMmio (offset + 0x3C)
  dma : ¬ inMmio (offset + 0x58)

/-- The registers as `reset` leaves them: cleared, then the stack pointer, the link register and the
program counter set. -/
def resetRegFile (table : VectorTable) (s : State) : State :=
  jump (put (put (clearLowRegs s) 13 table.stackTop) 14 resetLr) table.entry

theorem x_resetRegFile (table : VectorTable) (s : State) (r : Reg) :
    x (resetRegFile table s) r = resetRegs table r := by
  unfold resetRegFile resetRegs clearLowRegs
  rw [x_jump, x_put, x_put, x_foldl_zero]
  by_cases h13 : r = 13
  · rw [h13]
    rfl
  · by_cases h14 : r = 14
    · rw [h14]
      rfl
    · by_cases h15 : r = 15
      · rw [h15]
        rfl
      · have hlow : r ∈ ([0, 1, 2, 3, 4, 5, 6, 7, 8, 9, 10, 11, 12] : List Reg) := by
          revert h13 h14 h15
          revert r
          decide
        simp only [h13, h14, h15, hlow, if_true, if_false]

theorem foldl_zero_rest (rs : List Reg) (s : State) :
    ∃ regs, rs.foldl (fun t r => t.setReg r 0) s = { s with regs := regs } := by
  induction rs generalizing s with
  | nil => exact ⟨s.regs, rfl⟩
  | cons r rs ih => exact ih (s.setReg r 0)

theorem clearLowRegs_rest (s : State) : ∃ regs, clearLowRegs s = { s with regs := regs } :=
  foldl_zero_rest _ s

theorem resetRegFile_rest (table : VectorTable) (s : State) :
    ∃ regs, resetRegFile table s = { s with regs := regs } := by
  obtain ⟨regs, hlow⟩ := clearLowRegs_rest s
  unfold resetRegFile
  rw [hlow]
  exact ⟨_, rfl⟩

/-- A read of a word of the table, whatever the registers and latches hold by then. -/
def ReadsAs (s : State) (a v : Word) : Prop :=
  ∀ u : State, u.cfg = s.cfg → u.rom = s.rom → u.ram = s.ram → memRead a .word u = .ok (v, u)

theorem readsAs_plainAt (s : State) {a : Word} (h : ¬ inMmio a) : ReadsAs s a (plainAt s a .word) := by
  intro u hcfg hrom hram
  rw [memRead_plainAt _ _ h, plainAt_congr hcfg hrom hram]

/-- R421: what `reset` leaves where the four words are read without effect. -/
theorem hostReset_of_reads {s : State} {offset : Word} {table : VectorTable}
    (hsp : ReadsAs s (offset + vecSpOff) table.stackTop) (hpc : ReadsAs s (offset + vecResetOff) table.entry)
    (htick : ReadsAs s (offset + vecTickOff) table.tick) (hdma : ReadsAs s (offset + vecDmaOff) table.dma) :
    ∃ t, hostReset offset s = .ok t ∧ (∀ r, x t r = resetRegs table r) ∧
      t = { resetCells table s with regs := t.regs } := by
  obtain ⟨low, hlow⟩ := clearLowRegs_rest s
  obtain ⟨regs, hfile⟩ := resetRegFile_rest table s
  have hbranch : branch table.entry (((clearLowRegs s).setReg sp table.stackTop).setReg lr resetLr) =
      { s with regs := regs } := hfile
  rw [hlow] at hbranch
  have htop := hsp { s with regs := low } rfl rfl rfl
  have hentry := hpc ((State.setReg { s with regs := low } sp table.stackTop).setReg lr resetLr) rfl rfl rfl
  have hvecTick := htick (State.setFlags { s with regs := regs } ⟨false, false, false, false⟩) rfl rfl rfl
  have hvecDma := hdma { State.setFlags { s with regs := regs } ⟨false, false, false, false⟩ with
    vecTick := table.tick } rfl rfl rfl
  refine ⟨{ resetCells table s with regs := regs }, ?_, fun r => ?_, rfl⟩
  · simp only [hostReset, hlow, htop, hentry, hbranch, hvecTick, hvecDma, Except.bind, Except.map]
    rfl
  · rw [← x_resetRegFile table s r, hfile]
    rfl

theorem hostReset_plain (s : State) {offset : Word} (h : TablePlain offset) :
    ∃ t, hostReset offset s = .ok t ∧ (∀ r, x t r = resetRegs (tableAt s offset) r) ∧
      t = { resetCells (tableAt s offset) s with regs := t.regs } := by
  have hzero : offset + vecSpOff = offset := BitVec.add_zero offset
  exact hostReset_of_reads (by rw [hzero]; exact readsAs_plainAt s h.stackTop) (readsAs_plainAt s h.entry)
    (readsAs_plainAt s h.tick) (readsAs_plainAt s h.dma)

/-- Settles O56: the words of the table are read from the memories as they were. -/
theorem resetFollowsRule : Obligations.ResetFollowsRule := by
  intro s offset h0 h1 h2 h3
  obtain ⟨t, ht, hregs, hrest⟩ := hostReset_plain s ⟨h0, h1, h2, h3⟩
  exact ⟨t, congrArg answer ht, hregs, hrest⟩

/-! ### load_flash -/

theorem copyImage_get {n : Nat} {m : Memory} (h : m.wf) (o : Nat) (bs : List Byte) (p : Nat) :
    (copyImage n m o bs).get p =
      if o ≤ p ∧ p < n then (bs[p - o]?).getD (m.get p) else m.get p := by
  induction bs generalizing m o with
  | nil => simp [copyImage]
  | cons b bs ih =>
    unfold copyImage
    by_cases ho : o < n
    · rw [if_pos ho, ih (Memory.wf_set h _ b), Memory.get_set m h]
      by_cases hp : p = o
      · subst hp
        simp [ho]
      · by_cases hlt : o ≤ p
        · have hidx : p - o = p - (o + 1) + 1 := by omega
          simp [hp, hlt, show o + 1 ≤ p by omega, hidx]
        · simp [hp, hlt, show ¬ o + 1 ≤ p by omega]
    · rw [if_neg ho, ih h, if_neg (by omega), if_neg (by omega)]

/-- The memories after `load_flash` has refilled them and copied the image. -/
def flashed (image : List Byte) (offset : Word) (s : State) : State :=
  { s with rom := copyImage s.cfg.romSize [] offset.toNat image, ram := [] }

theorem loadFlash_plain (image : List Byte) (s : State) {offset : Word} (h : TablePlain offset) :
    ∃ t, loadFlash image offset s = .ok (decodeAll t) ∧
      (∀ r, x t r = resetRegs (tableAt (flashed image offset s) offset) r) ∧
      t = { resetCells (tableAt (flashed image offset s) offset) (flashed image offset s) with
        regs := t.regs } := by
  obtain ⟨t, ht, hregs, hrest⟩ := hostReset_plain (flashed image offset s) h
  exact ⟨t, congrArg (Except.map decodeAll) ht, hregs, hrest⟩

theorem tableAt_flashed {s u : State} (hcfg : s.cfg = u.cfg) (image : List Byte) (offset : Word) :
    tableAt (flashed image offset s) offset = tableAt (flashed image offset u) offset := by
  have hrom : (flashed image offset s).rom = (flashed image offset u).rom := by
    unfold flashed
    rw [hcfg]
  have read (a : Word) : plainAt (flashed image offset s) a .word = plainAt (flashed image offset u) a .word :=
    plainAt_congr hcfg hrom rfl
  rw [tableAt, tableAt, read, read, read, read]

/-- R420: the image over erased bytes. -/
theorem romAt_flashed (image : List Byte) (offset : Word) (s : State) (o : Nat) :
    romAt (flashed image offset s) o = if s.cfg.romSize ≤ o then 0
      else if offset.toNat ≤ o then (image[o - offset.toNat]?).getD 0xFF else 0xFF := by
  have herased : Memory.get [] o = 0xFF := rfl
  show (if o < s.cfg.romSize then (copyImage s.cfg.romSize [] offset.toNat image).get o else 0) = _
  rw [copyImage_get Memory.wf_nil, herased]
  by_cases ho : o < s.cfg.romSize
  · simp only [ho, not_le.mpr ho, and_true, if_true, if_false]
  · rw [if_neg ho, if_pos (not_lt.mp ho)]

/-- Settles O57: both runs reset from the same refilled memories. -/
theorem loadFlashForgetsThePast : Obligations.LoadFlashForgetsThePast := by
  intro image offset s u hcfg h0 h1 h2 h3
  obtain ⟨t, ht, htRegs, htRest⟩ := loadFlash_plain image s ⟨h0, h1, h2, h3⟩
  obtain ⟨v, hv, hvRegs, hvRest⟩ := loadFlash_plain image u ⟨h0, h1, h2, h3⟩
  have hregs : v.regs = t.regs := by
    refine Vector.ext fun i hi => (hvRegs ⟨i, hi⟩).trans ?_
    rw [← tableAt_flashed hcfg]
    exact (htRegs ⟨i, hi⟩).symm
  rw [hregs, ← tableAt_flashed hcfg] at hvRest
  obtain ⟨regs, hregs⟩ : ∃ regs, t.regs = regs := ⟨_, rfl⟩
  rw [hregs] at htRest hvRest
  generalize tableAt (flashed image offset s) offset = table at htRest hvRest
  subst htRest hvRest
  refine ⟨_, _, congrArg answer ht, congrArg answer hv, ?_, rfl, rfl, rfl, rfl, romAt_flashed image offset s⟩
  simp only [decodeAll, resetCells, flashed, hcfg]

/-! ### Construction -/

theorem configOk_default : configOk defaultConfig := by
  refine ⟨by decide, by decide, by decide, by decide, by decide, by decide, by decide, by decide, ?_⟩
  simp [defaultConfig, mmioBase, mmioLimit]

theorem stateOk_reset : StateOk State.reset where
  config := configOk_default
  romForm := Memory.wf_nil
  romBound := fun _ h => absurd h List.not_mem_nil
  ramForm := Memory.wf_nil
  ramBound := fun _ h => absurd h List.not_mem_nil
  tickBound := by decide
  readForm := by decide
  writeForm := by decide

theorem peek_elsewhere (s : State) {a : Word} (h : 0x40000000 ≤ a.toNat) : peek s a = 0 := by
  unfold peek plainRead
  cases hr : region a with
  | rom =>
    have hhi : a.toNat < 0x20000000 := region_eq_rom.mp hr
    omega
  | ram =>
    have hhi : a.toNat < 0x40000000 := (region_eq_ram.mp hr).2
    omega
  | mmio => rfl
  | unmodelled => rfl

theorem romAt_reset (o : Nat) : romAt State.reset o = if o < 0x40000 then 0xFF else 0 := rfl

theorem ramAt_reset (o : Nat) : ramAt State.reset o = if o < 0x8000 then 0xFF else 0 := rfl

/-- R38, R64, R66: both arrays erased, nothing beyond them. -/
theorem peek_reset (a : Word) : peek State.reset a =
    if a.toNat < 0x40000 ∨ (0x20000000 ≤ a.toNat ∧ a.toNat < 0x20008000) then 0xFF else 0 := by
  by_cases hrom : a.toNat < 0x20000000
  · rw [peek_rom _ hrom, romAt_reset]
    exact if_congr (by omega) rfl rfl
  · by_cases hram : a.toNat < 0x40000000
    · rw [peek_ram _ ⟨by omega, hram⟩, ramAt_reset]
      exact if_congr (by omega) rfl rfl
    · rw [peek_elsewhere _ (by omega), if_neg (by omega)]

/-- Settles O55: the construction is evaluated. -/
theorem constructionState : Obligations.ConstructionState :=
  ⟨rfl, by decide, rfl, peek_reset, fun _ => rfl, stateOk_reset⟩

end Sys2Proof.Proofs
end
